-- ==== Sys2Proof/Word.lean ====
section
/-! DEFINITION. The byte of the program buffer (00_scope.md section 6: 8 bits, bit 0 least significant). -/

namespace Sys2Proof

/-- A byte of the instruction stream; register indices and heap addresses are one byte each
(30_encoding.md R73, R74). -/
abbrev Byte := BitVec 8

end Sys2Proof
end

