-- ==== Sys2Proof/Syntax.lean ====
section
/-! DEFINITION. The value type Immediate (10_state.md R20, R21) and the 30 typed instructions
(30_encoding.md R71). -/

namespace Sys2Proof

/-- The eleven variant names of an Immediate (10_state.md R20). -/
inductive Kind where
  | none | u8 | i8 | u16 | i16 | u32 | i32 | u64 | i64 | f32 | f64
  deriving DecidableEq, Repr, Inhabited

/-- An Immediate: the machine's only value type (10_state.md R20, R21). A signed integer is held as
its two's complement pattern (D22), a float as its IEEE 754 bit pattern (R21), so every pattern is a
distinct value and every value is inside the range of its kind (R46 (g)). -/
inductive Imm where
  | none
  | u8 (v : BitVec 8)
  | i8 (v : BitVec 8)
  | u16 (v : BitVec 16)
  | i16 (v : BitVec 16)
  | u32 (v : BitVec 32)
  | i32 (v : BitVec 32)
  | u64 (v : BitVec 64)
  | i64 (v : BitVec 64)
  | f32 (v : BitVec 32)
  | f64 (v : BitVec 64)
  deriving DecidableEq, Repr, Inhabited

/-- The typed instructions of 30_encoding.md R71, in opcode order (R80). Register and address
operands are the bytes of the stream, 0 to 255, unchecked (R71, R96, D38). -/
inductive Instr where
  | nop
  | mov (reg : Byte) (imm : Imm)
  | movr (dst src : Byte)
  | jmp (reg : Byte)
  | je (reg : Byte)
  | jne (reg : Byte)
  | cmp (reg1 reg2 : Byte)
  | printr (reg : Byte)
  | printv (addr : Byte)
  | vstore (addr : Byte) (imm : Imm)
  | vload (addr : Byte)
  | add (reg1 reg2 : Byte)
  | sub (reg1 reg2 : Byte)
  | mul (reg1 reg2 : Byte)
  | div (reg1 reg2 : Byte)
  | vstorer (addr reg : Byte)
  | vloadr (reg addr : Byte)
  | vpush (imm : Imm)
  | vpushr (reg : Byte)
  | vpop (reg : Byte)
  | call (reg : Byte)
  | ret
  | halt
  | jg (reg : Byte)
  | jl (reg : Byte)
  | and (reg1 reg2 : Byte)
  | or (reg1 reg2 : Byte)
  | xor (reg1 reg2 : Byte)
  | shr (reg : Byte) (imm : Imm)
  | shl (reg : Byte) (imm : Imm)
  deriving DecidableEq, Repr, Inhabited

end Sys2Proof
end

