-- ==== Sys2Proof/Config.lean ====
section
/-! DEFINITION. What an implementation or the host fixes (00_scope.md R6) and the free values: the
pattern of a NaN result (44_arithmetic.md R170), the functions of a FLOAT_OPS record that is not the
default (R6) and the machine state after a fault (60_exceptions.md
R204). The free values are opaque constants with no body: nothing in Lean can tell what they are. -/

namespace Sys2Proof

/-- INT_OVERFLOW (44_arithmetic.md R162): what an integer result or a shift amount out of range does. -/
inductive OverflowMode where
  | wrap
  | fault
  deriving DecidableEq, Repr, Inhabited

/-- FLOAT_OPS (00_scope.md R6, 44_arithmetic.md R165), the NAME of a record of eight total functions: plain
data. The functions it names are `float32` and `float64` (Machine/Float.lean). DESIGN CHOICE (safe): log
entry 4. -/
inductive FloatOps where
  /-- The IEEE 754 operations of R165, the default R6 recommends, with the choice of NaN patterns (R170)
  that the number names. -/
  | ieee (nanChoice : Nat)
  /-- Any other record, the one that the number names. -/
  | other (record : Nat)
  deriving DecidableEq, Repr, Inhabited

/-- The parameters a model takes as an argument (00_scope.md R6). They are plain data, held in State
and changed by no step, so a statement about every state is about every configuration.
PROG, the other argument, is the field `prog` of State. DESIGN CHOICE (safe): log entry 1. -/
structure Config where
  /-- HEAP_CAP: the number of heap cells (D24). -/
  heapCap : Nat
  /-- STACK_CAPACITY: `none` is `unbounded` (D23). -/
  stackCapacity : Option Nat
  /-- INT_OVERFLOW (D16). -/
  intOverflow : OverflowMode
  /-- ADDSUB_KINDS (D15); only numeric kinds count (R160: None is in no list). -/
  addSubKinds : List Kind
  /-- FLOAT_OPS (D19). -/
  floatOps : FloatOps
  /-- IP_WIDTH: the number of bits of ip (D4; log entry 3). -/
  ipWidth : Nat
  deriving DecidableEq, Repr, Inhabited

/-- The ten numeric kinds (00_scope.md section 6). -/
def numericKinds : List Kind := [.u8, .i8, .u16, .i16, .u32, .i32, .u64, .i64, .f32, .f64]

/-- The configuration of State.reset: the spec's default of 95_test_vectors.md (HEAP_CAP 16, unbounded
stack, all ten kinds, IEEE 754 with the NaN choice named 0, IP_WIDTH 64), and Wrap for the open
INT_OVERFLOW (R6: a hardware ALU is Wrap).
DESIGN CHOICE (unsafe for a statement about State.reset alone): log entry 1. -/
def Config.atReset : Config :=
  { heapCap := 16, stackCapacity := none, intOverflow := .wrap, addSubKinds := numericKinds
    floatOps := .ieee 0, ipWidth := 64 }

/-- The four arithmetic operators (44_arithmetic.md section 4). -/
inductive ArithOp where
  | add | sub | mul | div
  deriving DecidableEq, Repr, Inhabited

/-- The heap as data: (address, cell) pairs. The canonical form is `Memory.wf` (Machine/Ops.lean). -/
abbrev Memory := List (Nat × Imm)

/-- The machine state that is unspecified once STATUS = FAULTED (60_exceptions.md R204): registers,
stack, heap, flags, ip and running. -/
structure MachineData where
  regs : Vector Imm 8
  stack : List Imm
  heap : Memory
  flagEq : Bool
  flagGt : Bool
  ip : Nat
  running : Bool
  deriving DecidableEq, Repr, Inhabited

/-- FREE VALUE (log entry 5): the sign and the fraction, less one, of the NaN that the named choice gives
for an operation on two binary32 patterns (R170: some NaN of the format, which one is not specified). It
depends on nothing else (R165). -/
opaque Config.nanChoice32 : Nat → ArithOp → BitVec 32 → BitVec 32 → Bool × Fin 8388607

/-- FREE VALUE (log entry 5): the same for binary64. -/
opaque Config.nanChoice64 : Nat → ArithOp → BitVec 64 → BitVec 64 → Bool × Fin 4503599627370495

/-- FREE VALUE (log entry 4): the four binary32 functions of a FLOAT_OPS record that is not the default. -/
opaque Config.otherFloat32 : Nat → ArithOp → BitVec 32 → BitVec 32 → BitVec 32

/-- FREE VALUE (log entry 4): the four binary64 functions of such a record. -/
opaque Config.otherFloat64 : Nat → ArithOp → BitVec 64 → BitVec 64 → BitVec 64

/-- FREE VALUE (log entry 6): the machine state after a fault, given the number of the draw and the
machine state before the faulting instruction (R204: unspecified). -/
opaque Config.residue : Nat → MachineData → MachineData

end Sys2Proof
end

