-- ==== Sys2Proof/Machine/Float.lean ====
section
/-! DEFINITION. FLOAT_OPS: the functions of a record (`float32`, `float64`), the IEEE 754 operations on binary32 and binary64 patterns, rounded
roundTiesToEven with gradual underflow (44_arithmetic.md R165; the spec's recommended default of
00_scope.md R6 and decision D19; log entry 4), and the IEEE 754 quiet comparisons (41_compare_branch.md
R120, R121; D20).

A finite pattern denotes an integer multiple of the least subnormal of its format, so every operation is
computed exactly on natural numbers and rounded once. -/

namespace Sys2Proof

/-- A binary interchange format: exponent bits and fraction bits. -/
structure FloatFormat where
  expBits : Nat
  fracBits : Nat
  deriving DecidableEq, Repr

/-- IEEE 754 binary32 (10_state.md R21). -/
def binary32 : FloatFormat := ⟨8, 23⟩

/-- IEEE 754 binary64 (10_state.md R21). -/
def binary64 : FloatFormat := ⟨11, 52⟩

/-- The weight of the sign bit: patterns below it are positive. -/
def signWeight (F : FloatFormat) : Nat := 2 ^ (F.expBits + F.fracBits)

/-- The pattern of +infinity: exponent all ones, fraction zero. -/
def infPattern (F : FloatFormat) : Nat := (2 ^ F.expBits - 1) * 2 ^ F.fracBits

/-- The sign of a pattern. -/
def floatSign (F : FloatFormat) (p : Nat) : Bool := decide (p / signWeight F % 2 = 1)

/-- The pattern without its sign bit. -/
def floatMag (F : FloatFormat) (p : Nat) : Nat := p % signWeight F

/-- A NaN: exponent all ones, fraction not zero (44_arithmetic.md R170). -/
def isNaN (F : FloatFormat) (p : Nat) : Bool := decide (infPattern F < floatMag F p)

/-- An infinity. -/
def isInf (F : FloatFormat) (p : Nat) : Bool := decide (floatMag F p = infPattern F)

/-- A zero of either sign. -/
def isZero (F : FloatFormat) (p : Nat) : Bool := decide (floatMag F p = 0)

/-- The value of a finite magnitude pattern, in units of the least subnormal: the fraction for a
subnormal, the significand times a power of two for a normal number. -/
def unitsOf (F : FloatFormat) (mag : Nat) : Nat :=
  if mag / 2 ^ F.fracBits = 0 then mag
  else (2 ^ F.fracBits + mag % 2 ^ F.fracBits) * 2 ^ (mag / 2 ^ F.fracBits - 1)

/-- How many least subnormals make 1.0. -/
def unitsOfOne (F : FloatFormat) : Nat := unitsOf F ((2 ^ (F.expBits - 1) - 1) * 2 ^ F.fracBits)

/-- `num / den` rounded to the nearest integer, ties to even. -/
def divNearestEven (num den : Nat) : Nat :=
  let q := num / den
  let r := num % den
  if den < 2 * r ∨ (den = 2 * r ∧ q % 2 = 1) then q + 1 else q

/-- How many bits the quotient `num / den` has beyond the significand: the exponent of its quantum. -/
def excessBits (F : FloatFormat) (num den : Nat) : Nat := Nat.log2 (num / den) - F.fracBits

/-- The magnitude pattern nearest to `num / den` least subnormals, ties to even, infinity when that is
too large (roundTiesToEven). A carry out of the significand goes into the exponent by itself. -/
def roundMag (F : FloatFormat) (num den : Nat) : Nat :=
  let k := excessBits F num den
  min (k * 2 ^ F.fracBits + divNearestEven num (den * 2 ^ k)) (infPattern F)

/-- A pattern from a sign and a magnitude pattern. -/
def withSign (F : FloatFormat) (negative : Bool) (mag : Nat) : Nat :=
  if negative then signWeight F + mag else mag

/-- The exact signed value of a finite pattern in units of the least subnormal. -/
def signedUnits (F : FloatFormat) (p : Nat) : Int :=
  if floatSign F p then -(unitsOf F (floatMag F p) : Int) else unitsOf F (floatMag F p)

/-- Addition; `none` says the result is a NaN (R165, R170). -/
def floatAdd (F : FloatFormat) (a b : Nat) : Option Nat :=
  if isNaN F a || isNaN F b then none
  else if isInf F a then
    if isInf F b && (floatSign F a != floatSign F b) then none
    else some (withSign F (floatSign F a) (infPattern F))
  else if isInf F b then some (withSign F (floatSign F b) (infPattern F))
  else
    let e := signedUnits F a + signedUnits F b
    if e = 0 then some (withSign F (floatSign F a && floatSign F b) 0)
    else some (withSign F (decide (e < 0)) (roundMag F e.natAbs 1))

/-- The pattern with its sign bit inverted. -/
def floatNeg (F : FloatFormat) (p : Nat) : Nat := withSign F (!floatSign F p) (floatMag F p)

/-- Subtraction: addition of the negated second operand. -/
def floatSub (F : FloatFormat) (a b : Nat) : Option Nat := floatAdd F a (floatNeg F b)

/-- Multiplication; `none` says the result is a NaN (R165, R170). -/
def floatMul (F : FloatFormat) (a b : Nat) : Option Nat :=
  let sign := floatSign F a != floatSign F b
  if isNaN F a || isNaN F b then none
  else if isInf F a || isInf F b then
    if isZero F a || isZero F b then none else some (withSign F sign (infPattern F))
  else
    some (withSign F sign
      (roundMag F (unitsOf F (floatMag F a) * unitsOf F (floatMag F b)) (unitsOfOne F)))

/-- Division; `none` says the result is a NaN (R165, R170). There is no division fault. -/
def floatDiv (F : FloatFormat) (a b : Nat) : Option Nat :=
  let sign := floatSign F a != floatSign F b
  if isNaN F a || isNaN F b then none
  else if isInf F a then
    if isInf F b then none else some (withSign F sign (infPattern F))
  else if isInf F b then some (withSign F sign 0)
  else if isZero F b then
    if isZero F a then none else some (withSign F sign (infPattern F))
  else
    some (withSign F sign
      (roundMag F (unitsOf F (floatMag F a) * unitsOfOne F) (unitsOf F (floatMag F b))))

/-- The operation of an arithmetic operator. -/
def floatOp (F : FloatFormat) : ArithOp → Nat → Nat → Option Nat
  | .add => floatAdd F
  | .sub => floatSub F
  | .mul => floatMul F
  | .div => floatDiv F

/-- The order of a pattern that is no NaN: the signed magnitude, both zeros alike. -/
def floatKey (F : FloatFormat) (p : Nat) : Int :=
  if floatSign F p then -(floatMag F p : Int) else floatMag F p

/-- `feq` (41_compare_branch.md R120): IEEE 754 quiet equality. -/
def floatEq (F : FloatFormat) (a b : Nat) : Bool :=
  !isNaN F a && !isNaN F b && decide (floatKey F a = floatKey F b)

/-- `fgt` (41_compare_branch.md R121): IEEE 754 quiet greater-than. -/
def floatGt (F : FloatFormat) (a b : Nat) : Bool :=
  !isNaN F a && !isNaN F b && decide (floatKey F b < floatKey F a)

/-- The binary32 NaN of a choice: its sign, exponent all ones, its fraction (not zero). Every NaN pattern
is the NaN of exactly one choice (R170; log entry 5). -/
def nanPattern32 (d : Bool × Fin 8388607) : BitVec 32 :=
  BitVec.ofNat 32 (withSign binary32 d.1 (infPattern binary32 + d.2.val + 1))

/-- The binary64 NaN of a choice. -/
def nanPattern64 (d : Bool × Fin 4503599627370495) : BitVec 64 :=
  BitVec.ofNat 64 (withSign binary64 d.1 (infPattern binary64 + d.2.val + 1))

/-- FLOAT_OPS.add32, sub32, mul32, div32 of 44_arithmetic.md R165 to R169, by the operator: total
functions of two patterns. -/
def float32 (ops : FloatOps) (op : ArithOp) (a b : BitVec 32) : BitVec 32 :=
  match ops with
  | .ieee n =>
    match floatOp binary32 op a.toNat b.toNat with
    | some p => BitVec.ofNat 32 p
    | none => nanPattern32 (Config.nanChoice32 n op a b)
  | .other n => Config.otherFloat32 n op a b

/-- FLOAT_OPS.add64, sub64, mul64, div64, by the operator. -/
def float64 (ops : FloatOps) (op : ArithOp) (a b : BitVec 64) : BitVec 64 :=
  match ops with
  | .ieee n =>
    match floatOp binary64 op a.toNat b.toNat with
    | some p => BitVec.ofNat 64 p
    | none => nanPattern64 (Config.nanChoice64 n op a b)
  | .other n => Config.otherFloat64 n op a b

end Sys2Proof
end

