-- ==== Sys2Proof/Machine/Value.lean ====
section
/-! DEFINITION. The notation of 00_scope.md section 6 on Immediates: kind, rank, width, value, pattern,
and the value of a kind with a given pattern. -/

namespace Sys2Proof

/-- `kind(v)`: the variant name. -/
def Imm.kind : Imm → Kind
  | .none => .none
  | .u8 _ => .u8
  | .i8 _ => .i8
  | .u16 _ => .u16
  | .i16 _ => .i16
  | .u32 _ => .u32
  | .i32 _ => .i32
  | .u64 _ => .u64
  | .i64 _ => .i64
  | .f32 _ => .f32
  | .f64 _ => .f64

/-- `rank(k)` (10_state.md R22; the spec's decision D2, log entry 14). -/
def Kind.rank : Kind → Nat
  | .none => 0
  | .u8 => 1
  | .i8 => 2
  | .u16 => 3
  | .i16 => 4
  | .u32 => 5
  | .i32 => 6
  | .u64 => 7
  | .i64 => 8
  | .f32 => 9
  | .f64 => 10

/-- `width(k)`: the bits of the scalar (10_state.md R21). -/
def Kind.width : Kind → Nat
  | .none => 0
  | .u8 | .i8 => 8
  | .u16 | .i16 => 16
  | .u32 | .i32 | .f32 => 32
  | .u64 | .i64 | .f64 => 64

/-- The signed kinds I8, I16, I32, I64. -/
def Kind.isSigned : Kind → Bool
  | .i8 | .i16 | .i32 | .i64 => true
  | .none | .u8 | .u16 | .u32 | .u64 | .f32 | .f64 => false

/-- The float kinds F32, F64. -/
def Kind.isFloat : Kind → Bool
  | .f32 | .f64 => true
  | .none | .u8 | .i8 | .u16 | .i16 | .u32 | .i32 | .u64 | .i64 => false

/-- The numeric kinds: every kind but None. -/
def Kind.isNumeric : Kind → Bool
  | .none => false
  | .u8 | .i8 | .u16 | .i16 | .u32 | .i32 | .u64 | .i64 | .f32 | .f64 => true

/-- The eight integer kinds. -/
def Kind.isInteger (k : Kind) : Bool := k.isNumeric && !k.isFloat

/-- `min_k` of an integer kind (10_state.md R21). -/
def Kind.minVal (k : Kind) : Int := if k.isSigned then -(2 ^ (k.width - 1) : Nat) else 0

/-- `max_k` of an integer kind (10_state.md R21). -/
def Kind.maxVal (k : Kind) : Int :=
  if k.isSigned then ((2 ^ (k.width - 1) : Nat) : Int) - 1 else ((2 ^ k.width : Nat) : Int) - 1

/-- `pat_k(v)`: the two's complement or float pattern as a number. None has no scalar: 0 stands there
and no rule reads it. -/
def Imm.pat : Imm → Nat
  | .none => 0
  | .u8 v => v.toNat
  | .i8 v => v.toNat
  | .u16 v => v.toNat
  | .i16 v => v.toNat
  | .u32 v => v.toNat
  | .i32 v => v.toNat
  | .u64 v => v.toNat
  | .i64 v => v.toNat
  | .f32 v => v.toNat
  | .f64 v => v.toNat

/-- `val(v)` of an integer Immediate: its signed or unsigned value. For a float it is the pattern
(00_scope.md section 6); None has no scalar: 0 stands there and no rule reads it. -/
def Imm.val : Imm → Int
  | .none => 0
  | .u8 v => v.toNat
  | .i8 v => v.toInt
  | .u16 v => v.toNat
  | .i16 v => v.toInt
  | .u32 v => v.toNat
  | .i32 v => v.toInt
  | .u64 v => v.toNat
  | .i64 v => v.toInt
  | .f32 v => v.toNat
  | .f64 v => v.toNat

/-- `k(of_pat_k(p))`: the Immediate of kind `k` whose pattern is `p mod 2^N`. -/
def Kind.ofPat : Kind → Nat → Imm
  | .none, _ => .none
  | .u8, p => .u8 (BitVec.ofNat 8 p)
  | .i8, p => .i8 (BitVec.ofNat 8 p)
  | .u16, p => .u16 (BitVec.ofNat 16 p)
  | .i16, p => .i16 (BitVec.ofNat 16 p)
  | .u32, p => .u32 (BitVec.ofNat 32 p)
  | .i32, p => .i32 (BitVec.ofNat 32 p)
  | .u64, p => .u64 (BitVec.ofNat 64 p)
  | .i64, p => .i64 (BitVec.ofNat 64 p)
  | .f32, p => .f32 (BitVec.ofNat 32 p)
  | .f64, p => .f64 (BitVec.ofNat 64 p)

/-- `k(of_pat_k(e mod 2^N))` of an unbounded integer `e` (44_arithmetic.md R162): `k(e)` when `e` is in
range, the low N bits of it read in kind `k` otherwise. -/
def Kind.ofInt (k : Kind) (e : Int) : Imm := k.ofPat (e % ((2 ^ k.width : Nat) : Int)).toNat

/-- `zext` of an unsigned number to a register of `width` bits: the number itself when it fits, as every
jump target does in 16 bits or more (10_state.md R29), its low bits in a narrower register (log entry
3). -/
def zext (width value : Nat) : Nat := value % 2 ^ width

end Sys2Proof
end

