-- ==== Sys2Proof/Decode.lean ====
section
/-! DEFINITION. The bytecode decoder (30_encoding.md): the byte buffer to the list of typed
instructions, or the decode truncation fault by name (R95, R97). After it the encoder with the
canonical spellings of R82 (NOP is 0x00, the tag of None is 0x0A). -/

namespace Sys2Proof

/-- What a part of the decoder answers: a value, or `DecodeTruncated(start, pos, n)` (R97). -/
inductive DecodeResult (α : Type) where
  | done (value : α)
  | truncated (start pos needed : Nat)
  deriving DecidableEq, Repr

/-- The decoder's cursor: the byte offset `pos` (R95) and the bytes from there to the end. -/
structure Cursor where
  pos : Nat
  rest : List Byte
  deriving DecidableEq, Repr

/-- Go on with the value, or pass the truncation on. -/
def DecodeResult.andThen {α β : Type} (r : DecodeResult α) (f : α → DecodeResult β) :
    DecodeResult β :=
  match r with
  | .done v => f v
  | .truncated start pos n => .truncated start pos n

/-- `le(b0, b1, ...)`: the little-endian number of the bytes (00_scope.md section 6, R54). -/
def leNat : List Byte → Nat
  | [] => 0
  | b :: bs => b.toNat + 256 * leNat bs

/-- The `n` little-endian bytes of a number (R54). -/
def leBytes : Nat → Nat → List Byte
  | 0, _ => []
  | n + 1, v => BitVec.ofNat 8 v :: leBytes n (v / 256)

/-- `take_byte()` of R95. -/
def takeByte (start : Nat) (c : Cursor) : DecodeResult (Byte × Cursor) :=
  match c.rest with
  | [] => .truncated start c.pos 1
  | b :: bs => .done (b, ⟨c.pos + 1, bs⟩)

/-- Take `n` payload bytes; the truncation condition is that of R97: `pos + n > len(PROG)`. -/
def takeBytes (start n : Nat) (c : Cursor) : DecodeResult (List Byte × Cursor) :=
  if n ≤ c.rest.length then .done (c.rest.take n, ⟨c.pos + n, c.rest.drop n⟩)
  else .truncated start c.pos n

/-- The kind a tag byte encodes: 0 to 9 the numeric kinds, anything else None (R75, R77). -/
def kindOfTag (tag : Byte) : Kind :=
  match tag.toNat with
  | 0 => .u8
  | 1 => .i8
  | 2 => .u16
  | 3 => .i16
  | 4 => .u32
  | 5 => .i32
  | 6 => .u64
  | 7 => .i64
  | 8 => .f32
  | 9 => .f64
  | _ => .none

/-- The payload bytes of a kind (R75). -/
def payloadBytes : Kind → Nat
  | .none => 0
  | .u8 | .i8 => 1
  | .u16 | .i16 => 2
  | .u32 | .i32 | .f32 => 4
  | .u64 | .i64 | .f64 => 8

/-- `take_imm()` of R95: the tag byte, then the payload of its kind, assembled little-endian into the
pattern of the value (R76). -/
def takeImm (start : Nat) (c : Cursor) : DecodeResult (Imm × Cursor) :=
  (takeByte start c).andThen fun tagged =>
    (takeBytes start (payloadBytes (kindOfTag tagged.1)) tagged.2).andThen fun payload =>
      .done ((kindOfTag tagged.1).ofPat (leNat payload.1), payload.2)

/-- The nine formats of R72, each with the instruction it builds from its operands. -/
inductive Format where
  | n (ins : Instr)
  | r (op : Byte → Instr)
  | a (op : Byte → Instr)
  | rr (op : Byte → Byte → Instr)
  | ar (op : Byte → Byte → Instr)
  | ra (op : Byte → Byte → Instr)
  | ri (op : Byte → Imm → Instr)
  | ai (op : Byte → Imm → Instr)
  | i (op : Imm → Instr)

/-- The opcode dispatch table (R80); every byte 30 to 255 is NOP (R81). -/
def formatOf (opcode : Byte) : Format :=
  match opcode.toNat with
  | 0 => .n .nop
  | 1 => .ri .mov
  | 2 => .rr .movr
  | 3 => .r .jmp
  | 4 => .r .je
  | 5 => .r .jne
  | 6 => .rr .cmp
  | 7 => .r .printr
  | 8 => .a .printv
  | 9 => .ai .vstore
  | 10 => .a .vload
  | 11 => .rr .add
  | 12 => .rr .sub
  | 13 => .rr .mul
  | 14 => .rr .div
  | 15 => .ar .vstorer
  | 16 => .ra .vloadr
  | 17 => .i .vpush
  | 18 => .r .vpushr
  | 19 => .r .vpop
  | 20 => .r .call
  | 21 => .n .ret
  | 22 => .n .halt
  | 23 => .r .jg
  | 24 => .r .jl
  | 25 => .rr .and
  | 26 => .rr .or
  | 27 => .rr .xor
  | 28 => .ri .shr
  | 29 => .ri .shl
  | _ => .n .nop

/-- One byte operand. -/
def takeOne (start : Nat) (c : Cursor) (op : Byte → Instr) : DecodeResult (Instr × Cursor) :=
  (takeByte start c).andThen fun x => .done (op x.1, x.2)

/-- Two byte operands, in stream order. -/
def takeTwo (start : Nat) (c : Cursor) (op : Byte → Byte → Instr) : DecodeResult (Instr × Cursor) :=
  (takeByte start c).andThen fun x =>
    (takeByte start x.2).andThen fun y => .done (op x.1 y.1, y.2)

/-- One byte operand, then a tagged immediate. -/
def takeByteImm (start : Nat) (c : Cursor) (op : Byte → Imm → Instr) :
    DecodeResult (Instr × Cursor) :=
  (takeByte start c).andThen fun x =>
    (takeImm start x.2).andThen fun v => .done (op x.1 v.1, v.2)

/-- The operands of a format (R95, the case split on `fmt`). -/
def takeOperands (start : Nat) (c : Cursor) : Format → DecodeResult (Instr × Cursor)
  | .n ins => .done (ins, c)
  | .r op => takeOne start c op
  | .a op => takeOne start c op
  | .rr op => takeTwo start c op
  | .ar op => takeTwo start c op
  | .ra op => takeTwo start c op
  | .ri op => takeByteImm start c op
  | .ai op => takeByteImm start c op
  | .i op => (takeImm start c).andThen fun v => .done (op v.1, v.2)

/-- One instruction at the cursor: the opcode byte, then the operands of its format (R95). -/
def decodeInstr (c : Cursor) : DecodeResult (Instr × Cursor) :=
  (takeByte c.pos c).andThen fun op => takeOperands c.pos op.2 (formatOf op.1)

/-- The loop of R95, from a cursor. `fuel` bounds the iterations: each consumes at least one byte
(R98), so as many as there are bytes is enough. -/
def decodeLoop : Nat → Cursor → DecodeResult (List Instr)
  | 0, _ => .done []
  | fuel + 1, c =>
    match c.rest with
    | [] => .done []
    | _ :: _ =>
      (decodeInstr c).andThen fun x =>
        (decodeLoop fuel x.2).andThen fun code => .done (x.1 :: code)

/-- `decode(PROG)` (R95). -/
def decode (prog : List Byte) : DecodeResult (List Instr) := decodeLoop prog.length ⟨0, prog⟩

/-- The tag byte of a kind: rank less one, and 0x0A for None (R75, R82). -/
def tagOfKind : Kind → Byte
  | .u8 => 0
  | .i8 => 1
  | .u16 => 2
  | .i16 => 3
  | .u32 => 4
  | .i32 => 5
  | .u64 => 6
  | .i64 => 7
  | .f32 => 8
  | .f64 => 9
  | .none => 10

/-- The tagged immediate's bytes: the tag, then the little-endian payload (R75, R76). -/
def encodeImm : Imm → List Byte
  | .none => [tagOfKind .none]
  | .u8 v => tagOfKind .u8 :: leBytes 1 v.toNat
  | .i8 v => tagOfKind .i8 :: leBytes 1 v.toNat
  | .u16 v => tagOfKind .u16 :: leBytes 2 v.toNat
  | .i16 v => tagOfKind .i16 :: leBytes 2 v.toNat
  | .u32 v => tagOfKind .u32 :: leBytes 4 v.toNat
  | .i32 v => tagOfKind .i32 :: leBytes 4 v.toNat
  | .u64 v => tagOfKind .u64 :: leBytes 8 v.toNat
  | .i64 v => tagOfKind .i64 :: leBytes 8 v.toNat
  | .f32 v => tagOfKind .f32 :: leBytes 4 v.toNat
  | .f64 v => tagOfKind .f64 :: leBytes 8 v.toNat

/-- The bytes of an instruction, by the formats of R72 and the numbers of R80. -/
def encode : Instr → List Byte
  | .nop => [0x00]
  | .mov reg imm => 0x01 :: reg :: encodeImm imm
  | .movr dst src => [0x02, dst, src]
  | .jmp reg => [0x03, reg]
  | .je reg => [0x04, reg]
  | .jne reg => [0x05, reg]
  | .cmp reg1 reg2 => [0x06, reg1, reg2]
  | .printr reg => [0x07, reg]
  | .printv addr => [0x08, addr]
  | .vstore addr imm => 0x09 :: addr :: encodeImm imm
  | .vload addr => [0x0A, addr]
  | .add reg1 reg2 => [0x0B, reg1, reg2]
  | .sub reg1 reg2 => [0x0C, reg1, reg2]
  | .mul reg1 reg2 => [0x0D, reg1, reg2]
  | .div reg1 reg2 => [0x0E, reg1, reg2]
  | .vstorer addr reg => [0x0F, addr, reg]
  | .vloadr reg addr => [0x10, reg, addr]
  | .vpush imm => 0x11 :: encodeImm imm
  | .vpushr reg => [0x12, reg]
  | .vpop reg => [0x13, reg]
  | .call reg => [0x14, reg]
  | .ret => [0x15]
  | .halt => [0x16]
  | .jg reg => [0x17, reg]
  | .jl reg => [0x18, reg]
  | .and reg1 reg2 => [0x19, reg1, reg2]
  | .or reg1 reg2 => [0x1A, reg1, reg2]
  | .xor reg1 reg2 => [0x1B, reg1, reg2]
  | .shr reg imm => 0x1C :: reg :: encodeImm imm
  | .shl reg imm => 0x1D :: reg :: encodeImm imm

/-- The bytes of a program: its instructions laid end to end (R70). -/
def encodeProgram (code : List Instr) : List Byte := code.flatMap encode

/-- The length of the longest instruction in bytes (R72). -/
def longestInstr : Nat := 11

/-- The bytes of a numbered instruction word: bit 0 is the least significant bit of the first byte,
every bit at or above `nbits` is 0, and zero bytes fill it up to the longest instruction. -/
def tableBytes (nbits w : Nat) : List Byte :=
  leBytes (max longestInstr ((nbits + 7) / 8)) (w % 2 ^ nbits)

/-- The instruction the decoder reads from a word numbered as spec/opcode_table.json numbers it. -/
def decodeTableWord (nbits w : Nat) : Option Instr :=
  match decodeInstr ⟨0, tableBytes nbits w⟩ with
  | .done x => some x.1
  | .truncated _ _ _ => none

/-- The bytes of that instruction alone, without the zeros the decoder did not consume. -/
def tableProgram (nbits w : Nat) : List Byte :=
  match decodeInstr ⟨0, tableBytes nbits w⟩ with
  | .done x => (tableBytes nbits w).take x.2.pos
  | .truncated _ _ _ => tableBytes nbits w

end Sys2Proof
end

