-- ==== Sys2Proof/Machine/State.lean ====
section
/-! DEFINITION. The state of the machine as plain data (10_state.md), the fault causes and the fault
record (60_exceptions.md R201, R203), and the state right after reset (10_state.md R45). -/

namespace Sys2Proof.Machine

/-- The causes of an execution fault (60_exceptions.md R201, codes 2 to 10), with the information
recorded. All are safe: the hardware stops there too. -/
inductive Cause where
  /-- An access to register `i` with `i > 7` (10_state.md R25). Raised by every instruction with a
  register operand, when it accesses it. Safe. -/
  | regIndex (i : Byte)
  /-- An access to heap cell `a` with `a >= HEAP_CAP` (20_memory.md R53). Raised by VSTORE, VLOAD,
  VSTORER, VLOADR, PRINTV. Safe. -/
  | heapAddr (a : Byte)
  /-- A pop of the empty stack (10_state.md R33). Raised by VPOP, RET. Safe. -/
  | stackEmpty
  /-- A jump target not of kind U8 or U16 (41_compare_branch.md R123). Raised by JMP, a taken JE, JNE,
  JG, JL, and CALL. Safe. -/
  | badJumpKind (v : Imm)
  /-- A return target not of kind U8 or U16 (41_compare_branch.md R131). Raised by RET. Safe. -/
  | badReturnKind (v : Imm)
  /-- Operands of different kinds or of an unsupported kind (44_arithmetic.md R160,
  45_bitwise_shift.md R182). Raised by the nine ALU instructions. Safe. -/
  | kindMismatch (v1 v2 : Imm)
  /-- Integer division by zero (44_arithmetic.md R164). Raised by DIV. Safe. -/
  | divideByZero
  /-- An integer result or shift amount out of range (44_arithmetic.md R162, R164,
  45_bitwise_shift.md R188). Raised by ADD, SUB, MUL, DIV, SHR, SHL. Safe. -/
  | intOverflow
  /-- A push on a full finite stack (10_state.md R33). Raised by every instruction that pushes. Safe. -/
  | stackOverflow
  deriving DecidableEq, Repr

/-- The fault record (10_state.md R41, 60_exceptions.md R203). -/
inductive Fault where
  /-- The decode truncation fault (30_encoding.md R97). Raised by `construct`. Safe: no instruction
  executes on the hardware either (60_exceptions.md R205). -/
  | decodeTruncated (start pos needed : Nat)
  /-- An execution fault: the cause, the step index and the instruction (60_exceptions.md R203). Raised
  by the meaning of the instruction; every later step answers it again. Safe: the run is over. -/
  | execution (cause : Cause) (stepIndex : Nat) (ins : Instr)
  deriving DecidableEq, Repr

/-- Where the model gives no meaning. -/
inductive Refusal where
  /-- An instruction that has no meaning yet, by its mnemonic. Raised by no arm: all 30 are modelled.
  Safe. -/
  | notModelled (mnemonic : String)
  /-- A step of a machine whose run is over (STATUS = DONE, or FAULTED without a record, which no run
  reaches): the spec offers no such transition (10_state.md R40, R47, U14). Raised by `step`. Safe.
  DESIGN CHOICE: log entry 9. -/
  | runOver
  deriving DecidableEq, Repr

/-- STATUS (10_state.md R40). -/
inductive Status where
  | constructed | running | done | faulted
  deriving DecidableEq, Repr

/-- An event of the OBS stream (46_system.md R195, R196). -/
inductive Event where
  | printR (v : Imm)
  | printV (v : Imm)
  deriving DecidableEq, Repr


/-- The state of the machine: everything the spec names (10_state.md R35, R36, R40 to R42, R245), the
program buffer (20_memory.md R50), the configuration (00_scope.md R6) and the model's draw counter. -/
structure State where
  /-- The parameters (00_scope.md R6); no step changes them. -/
  cfg : Config
  /-- PROG (20_memory.md R50); read by `construct` alone (70_reset_and_hazards.md R241). -/
  prog : List Byte
  /-- The decoded instructions (10_state.md R32). -/
  code : List Instr
  /-- registers[0] to registers[7] (10_state.md R24). -/
  regs : Vector Imm 8
  /-- The operand stack; its last element is the top (10_state.md R33). -/
  stack : List Imm
  /-- The heap in canonical form; an unlisted cell holds U8(0) (10_state.md R34; log entry 11). -/
  heap : Memory
  /-- flag_eq (10_state.md R30). -/
  flagEq : Bool
  /-- flag_gt (10_state.md R30). -/
  flagGt : Bool
  /-- ip (10_state.md R27): the unsigned number its IP_WIDTH bits hold (log entry 3). -/
  ip : Nat
  /-- running (10_state.md R31). -/
  running : Bool
  /-- fi, the position of the run loop in `code` (10_state.md R28). -/
  fi : Nat
  /-- STATUS (10_state.md R40). -/
  status : Status
  /-- FAULT, valid only when STATUS = FAULTED (10_state.md R41). -/
  fault : Option Fault
  /-- The OBS stream, oldest event first (10_state.md R36). -/
  obs : List Event
  /-- The MODEL's own: how many free values have been drawn. DESIGN CHOICE: log entry 7. -/
  draws : Nat
  deriving DecidableEq, Repr

/-- The machine right after reset (10_state.md R45) for the empty program buffer and the configuration
`Config.atReset`. DESIGN CHOICE: log entries 1, 2 and 7; the spec's own decisions: log entry 13. -/
def State.reset : State :=
  { cfg := Config.atReset
    prog := []
    code := []
    regs := Vector.replicate 8 (.u8 0)
    stack := []
    heap := []
    flagEq := false
    flagGt := false
    ip := 0
    running := true
    fi := 0
    status := .constructed
    fault := none
    obs := []
    draws := 0 }

end Sys2Proof.Machine
end

