-- ==== Sys2Proof/Machine/Ops.lean ====
section
/-! DEFINITION. The primitives of 00_scope.md section 7 (register, heap and stack access, emit, raise) and
the sequencer's operations (70_reset_and_hazards.md): construct, run, fetch, advance, and what a fault
does to the state (60_exceptions.md R202 to R204). -/

namespace Sys2Proof.Machine

/-- What a step or an instruction answers. -/
abbrev Result := Host.Outcome State Fault Refusal

/-! ### The heap as data -/

/-- What a cell that nothing has stored to holds: U8(0) (10_state.md R45). -/
def blankCell : Imm := .u8 0

/-- The cell at an address; an unlisted one holds U8(0) (20_memory.md R58 (d)). -/
def Memory.read : Memory → Nat → Imm
  | [], _ => blankCell
  | (b, w) :: m, a => if a = b then w else Memory.read m a

/-- A cell in front of a memory, left out when it holds what an unlisted cell holds. -/
def Memory.cell (a : Nat) (v : Imm) (m : Memory) : Memory := if v = blankCell then m else (a, v) :: m

/-- Store to one cell, keeping addresses rising and blank cells unlisted. -/
def Memory.write : Memory → Nat → Imm → Memory
  | [], a, v => Memory.cell a v []
  | (b, w) :: m, a, v =>
    if a < b then Memory.cell a v ((b, w) :: m)
    else if a = b then Memory.cell a v m
    else (b, w) :: Memory.write m a v

/-- Addresses rise strictly from `lo` on, and no listed cell is blank. -/
def Memory.wfFrom : Nat → Memory → Bool
  | _, [] => true
  | lo, (a, v) :: m => decide (lo ≤ a) && decide (v ≠ blankCell) && Memory.wfFrom (a + 1) m

/-- The canonical form: strictly rising addresses, no entry equal to an unlisted cell. -/
def Memory.wf (m : Memory) : Bool := Memory.wfFrom 0 m

/-- Every listed cell exists: its address is below HEAP_CAP (20_memory.md R57). -/
def Memory.below (heapCap : Nat) (m : Memory) : Bool := m.all fun c => decide (c.1 < heapCap)

/-- The canonical memory of a list of cells, later ones winning, cells that do not exist left out. -/
def Memory.ofCells (heapCap : Nat) (cells : List (Nat × Imm)) : Memory :=
  (cells.filter fun c => decide (c.1 < heapCap)).foldl (fun m c => Memory.write m c.1 c.2) []

/-! ### The primitives -/

/-- `x[i]` (10_state.md R25). -/
def readReg (s : State) (i : Byte) : Except Cause Imm :=
  if h : i.toNat < 8 then .ok s.regs[i.toNat] else .error (.regIndex i)

/-- `x[i] <- v` (10_state.md R25). -/
def writeReg (s : State) (i : Byte) (v : Imm) : Except Cause State :=
  if h : i.toNat < 8 then .ok { s with regs := s.regs.set i.toNat v h } else .error (.regIndex i)

/-- `MemRead(a, 1)` (20_memory.md R53). -/
def heapRead (s : State) (a : Byte) : Except Cause Imm :=
  if a.toNat < s.cfg.heapCap then .ok (Memory.read s.heap a.toNat) else .error (.heapAddr a)

/-- `MemWrite(a, 1, v)` (20_memory.md R53). -/
def heapWrite (s : State) (a : Byte) (v : Imm) : Except Cause State :=
  if a.toNat < s.cfg.heapCap then .ok { s with heap := Memory.write s.heap a.toNat v }
  else .error (.heapAddr a)

/-- The stack has room for one more entry (10_state.md R33: STACK_CAPACITY). -/
def stackHasRoom (cfg : Config) (stack : List Imm) : Bool :=
  match cfg.stackCapacity with
  | none => true
  | some cap => decide (stack.length < cap)

/-- `push(v)` (10_state.md R33). -/
def push (s : State) (v : Imm) : Except Cause State :=
  if stackHasRoom s.cfg s.stack then .ok { s with stack := s.stack ++ [v] } else .error .stackOverflow

/-- `pop()` (10_state.md R33). -/
def pop (s : State) : Except Cause (Imm × State) :=
  match s.stack.getLast? with
  | none => .error .stackEmpty
  | some v => .ok (v, { s with stack := s.stack.dropLast })

/-- `emit(e)` (46_system.md R195). -/
def emit (s : State) (e : Event) : State := { s with obs := s.obs ++ [e] }

/-- `flag_eq <- eq`, `flag_gt <- gt` (10_state.md R30). -/
def setFlags (s : State) (eq gt : Bool) : State := { s with flagEq := eq, flagGt := gt }

/-- `ip <- t` (10_state.md R27). -/
def setIp (s : State) (t : Nat) : State := { s with ip := t }

/-- `running <- b` (10_state.md R31). -/
def setRunning (s : State) (b : Bool) : State := { s with running := b }

/-! ### Faults -/

/-- The end of an instruction: its next state, or the fault signal of its `raise` with the record of
60_exceptions.md R203 (70_reset_and_hazards.md R245: a new machine state or a fault signal). -/
def conclude (ins : Instr) (s : State) (r : Except Cause State) : Result :=
  match r with
  | .ok t => .next t
  | .error cause => .fault (.execution cause s.fi ins)

/-- The machine state that a fault leaves unspecified (60_exceptions.md R204). -/
def machineData (s : State) : MachineData :=
  { regs := s.regs, stack := s.stack, heap := s.heap, flagEq := s.flagEq, flagGt := s.flagGt,
    ip := s.ip, running := s.running }

/-- TAKING A FAULT (60_exceptions.md R202 to R204): STATUS <- FAULTED, FAULT <- the record, `fi` does not
advance, OBS keeps the events of earlier instructions, `code` never changes; registers, stack, heap,
flags, ip and running are unspecified, so each is a free value (log entry 6). The heap keeps the form
of its representation, cells below HEAP_CAP only, and `ip` its width. There is no return from a fault (R210). -/
def recordFault (s : State) (r : Fault) : State :=
  let after := Config.residue s.draws (machineData s)
  { s with
    regs := after.regs
    stack := after.stack
    heap := Memory.ofCells s.cfg.heapCap after.heap
    flagEq := after.flagEq
    flagGt := after.flagGt
    ip := zext s.cfg.ipWidth after.ip
    running := after.running
    status := .faulted
    fault := some r
    draws := s.draws + 1 }

/-! ### The lifecycle -/

/-- Every piece of state at the value of 10_state.md R45, for the given inputs and decoded program. -/
def freshState (cfg : Config) (prog : List Byte) (code : List Instr) : State :=
  { State.reset with cfg := cfg, prog := prog, code := code }

/-- `construct(PROG, HEAP_CAP)` (70_reset_and_hazards.md R240): decode the whole buffer, then the values of
R45; a truncation leaves the machine FAULTED with no code at all (30_encoding.md R97, 60_exceptions.md
R205). The spec gives `fi` no value there (R240 stops before `fi <- 0`); the model has 0. DESIGN CHOICE: log
entry 29. -/
def construct (cfg : Config) (prog : List Byte) : State :=
  match decode prog with
  | .done code => freshState cfg prog code
  | .truncated start pos n => recordFault (freshState cfg prog []) (.decodeTruncated start pos n)

/-- STATUS of a run whose position is `fi` (10_state.md R40): RUNNING while instructions are left. -/
def runStatus (fi : Nat) (code : List Instr) : Status :=
  if fi < code.length then .running else .done

/-- The `run` event (70_reset_and_hazards.md R243): RUNNING, or DONE at once when there is no code. -/
def startRun (s : State) : State := { s with status := runStatus s.fi s.code }

/-- Fetch by position: `code[fi]`, never by `ip` (41_compare_branch.md R132). -/
def fetch (s : State) : Option Instr := s.code[s.fi]?

/-- `fi <- fi + 1` after a completed instruction, and DONE after the last one (R243, R244). -/
def advance (s : State) : State :=
  { s with fi := s.fi + 1, status := runStatus (s.fi + 1) s.code }

/-- What the run loop does with an instruction's answer (R243): advance, or record the fault. -/
def afterInstr (s : State) (r : Result) : Result :=
  match r with
  | .next t => .next (advance t)
  | .fault f => .next (recordFault s f)
  | .refused why => .refused why

/-- A machine whose run is over has no step (10_state.md R40, R47): FAULTED answers its record, DONE is
refused. DESIGN CHOICE: log entry 9. -/
def whenOver (s : State) : Result :=
  match s.status, s.fault with
  | .faulted, some f => .fault f
  | _, _ => .refused .runOver

/-- The machine with a one-instruction program whose bytes are given, about to execute it: the load
that `construct` and `run` make (log entry 2). -/
def loadProgram (s : State) (prog : List Byte) : State :=
  match decode prog with
  | .done code => { s with prog := prog, code := code, fi := 0, status := .running, fault := none }
  | .truncated start pos n =>
    { s with prog := prog, code := [], fi := 0, status := .faulted
             fault := some (.decodeTruncated start pos n) }

end Sys2Proof.Machine
end

