-- ==== Sys2Proof/Machine/Operands.lean ====
section
/-! DEFINITION. The operand forms of the ALU: two registers (44_arithmetic.md R160) and register with
immediate (45_bitwise_shift.md R182), the integer laws they compute by (R162, R164, R181, R188), and the
common jump action (41_compare_branch.md R123). -/

namespace Sys2Proof.Machine

/-- KINDS(ADD) = KINDS(SUB): ADDSUB_KINDS (44_arithmetic.md R161; D15). None is in no list (R160). -/
def kindsAddSub (cfg : Config) (k : Kind) : Bool := k.isNumeric && cfg.addSubKinds.contains k

/-- KINDS(MUL) = KINDS(DIV): the ten numeric kinds (44_arithmetic.md R160). -/
def kindsMulDiv (k : Kind) : Bool := k.isNumeric

/-- KINDS of AND, OR, XOR, SHR, SHL: the eight integer kinds (45_bitwise_shift.md R180). -/
def kindsBitwise (k : Kind) : Bool := k.isInteger

/-- The kind checks and the computation the two ALU steps share (R160, R182), then the push. -/
def aluStep (s : State) (kinds : Kind → Bool) (apply : Imm → Imm → Except Cause Imm)
    (v1 v2 : Imm) : Except Cause State :=
  if v1.kind ≠ v2.kind then .error (.kindMismatch v1 v2)
  else if kinds v1.kind = false then .error (.kindMismatch v1 v2)
  else (apply v1 v2).bind fun r => push s r

/-- `alu_rr(op, reg1, reg2)` (44_arithmetic.md R160). -/
def aluRR (s : State) (kinds : Kind → Bool) (apply : Imm → Imm → Except Cause Imm)
    (reg1 reg2 : Byte) : Except Cause State :=
  (readReg s reg1).bind fun v1 => (readReg s reg2).bind fun v2 => aluStep s kinds apply v1 v2

/-- `alu_ri(op, reg, imm)` (45_bitwise_shift.md R182). -/
def aluRI (s : State) (kinds : Kind → Bool) (apply : Imm → Imm → Except Cause Imm)
    (reg : Byte) (imm : Imm) : Except Cause State :=
  (readReg s reg).bind fun v1 => aluStep s kinds apply v1 imm

/-- `int_result(k, e)` (44_arithmetic.md R162; D16). -/
def intResult (mode : OverflowMode) (k : Kind) (e : Int) : Except Cause Imm :=
  if k.minVal ≤ e ∧ e ≤ k.maxVal then .ok (k.ofInt e)
  else
    match mode with
    | .wrap => .ok (k.ofInt e)
    | .fault => .error .intOverflow

/-- `int_div(k, v1, v2)` (44_arithmetic.md R164; the spec's decision D17, log entry 17). -/
def intDiv (k : Kind) (a b : Int) : Except Cause Imm :=
  if b = 0 then .error .divideByZero
  else if k.isSigned = true ∧ a = k.minVal ∧ b = -1 then .error .intOverflow
  else .ok (k.ofInt (a.tdiv b))

/-- `apply(op, k, v1, v2)` for an integer kind (44_arithmetic.md R163, R166 to R169). -/
def intArith (mode : OverflowMode) (op : ArithOp) (k : Kind) (a b : Int) : Except Cause Imm :=
  match op with
  | .add => intResult mode k (a + b)
  | .sub => intResult mode k (a - b)
  | .mul => intResult mode k (a * b)
  | .div => intDiv k a b

/-- `apply(op, k, v1, v2)` of the four arithmetic operators on two values of one kind (44_arithmetic.md
R166 to R169): FLOAT_OPS of the two patterns for a float kind, the integer laws otherwise. -/
def applyArith (cfg : Config) (op : ArithOp) (v1 v2 : Imm) : Except Cause Imm :=
  if v1.kind = .f32 then
    .ok (.f32 (float32 cfg.floatOps op (BitVec.ofNat 32 v1.pat) (BitVec.ofNat 32 v2.pat)))
  else if v1.kind = .f64 then
    .ok (.f64 (float64 cfg.floatOps op (BitVec.ofNat 64 v1.pat) (BitVec.ofNat 64 v2.pat)))
  else intArith cfg.intOverflow op v1.kind v1.val v2.val

/-- `apply` of the three bitwise operators: bit by bit on the two's complement patterns
(45_bitwise_shift.md R181). -/
def applyBitwise (op : Nat → Nat → Nat) (v1 v2 : Imm) : Except Cause Imm :=
  .ok (v1.kind.ofPat (op v1.pat v2.pat))

/-- `shift_amount(k, v2)` (45_bitwise_shift.md R188; D18). -/
def shiftAmount (mode : OverflowMode) (k : Kind) (v2 : Imm) : Except Cause Nat :=
  if 0 ≤ v2.val ∧ v2.val < k.width then .ok v2.val.toNat
  else
    match mode with
    | .wrap => .ok (v2.pat % k.width)
    | .fault => .error .intOverflow

/-- `apply(SHR, k, v1, v2)` (45_bitwise_shift.md R186): the floor of the value over a power of two. -/
def applyShr (mode : OverflowMode) (v1 v2 : Imm) : Except Cause Imm :=
  (shiftAmount mode v1.kind v2).map fun a =>
    v1.kind.ofInt (v1.val.fdiv ((2 ^ a : Nat) : Int))

/-- `apply(SHL, k, v1, v2)` (45_bitwise_shift.md R187): the pattern times a power of two, its high bits
lost. -/
def applyShl (mode : OverflowMode) (v1 v2 : Imm) : Except Cause Imm :=
  (shiftAmount mode v1.kind v2).map fun a => v1.kind.ofPat (v1.pat * 2 ^ a)

/-- The value a jump or return may have: the scalar of a U8 or U16, zero-extended to IP_WIDTH bits
(41_compare_branch.md R123, JUMPABLE_KINDS of 00_scope.md R5). -/
def jumpTarget (cfg : Config) : Imm → Option Nat
  | .u8 v => some (zext cfg.ipWidth v.toNat)
  | .u16 v => some (zext cfg.ipWidth v.toNat)
  | .none | .i8 _ | .i16 _ | .u32 _ | .i32 _ | .u64 _ | .i64 _ | .f32 _ | .f64 _ => none

/-- `jump_to(v)` (41_compare_branch.md R123). -/
def jumpTo (s : State) (v : Imm) : Except Cause State :=
  match jumpTarget s.cfg v with
  | some t => .ok (setIp s t)
  | none => .error (.badJumpKind v)

/-- JMP on a register (41_compare_branch.md R124). -/
def jumpReg (s : State) (reg : Byte) : Except Cause State :=
  (readReg s reg).bind fun v => jumpTo s v

/-- `Jcc reg` (41_compare_branch.md R125): when the condition is false nothing happens, and the register
is not accessed (D12). -/
def jumpIf (s : State) (taken : Bool) (reg : Byte) : Except Cause State :=
  if taken then jumpReg s reg else .ok s

/-- The return address CALL pushes: `U16((ip + 1) mod 65536)` (41_compare_branch.md R130; D14). -/
def returnAddress (s : State) : Imm := .u16 (BitVec.ofNat 16 (s.ip + 1))

end Sys2Proof.Machine
end

