-- ==== Sys2Proof/Machine/Arithmetic.lean ====
section
/-! DEFINITION. The four arithmetic instructions (44_arithmetic.md). The first register operand is the
left one; the result goes to the stack. -/

namespace Sys2Proof.Machine

/-- ADD reg1, reg2 (R166). -/
def execAdd (reg1 reg2 : Byte) (s : State) : Result :=
  conclude (.add reg1 reg2) s
    (aluRR s (kindsAddSub s.cfg) (applyArith s.cfg .add) reg1 reg2)

/-- SUB reg1, reg2 (R167). -/
def execSub (reg1 reg2 : Byte) (s : State) : Result :=
  conclude (.sub reg1 reg2) s
    (aluRR s (kindsAddSub s.cfg) (applyArith s.cfg .sub) reg1 reg2)

/-- MUL reg1, reg2 (R168). -/
def execMul (reg1 reg2 : Byte) (s : State) : Result :=
  conclude (.mul reg1 reg2) s (aluRR s kindsMulDiv (applyArith s.cfg .mul) reg1 reg2)

/-- DIV reg1, reg2 (R169). -/
def execDiv (reg1 reg2 : Byte) (s : State) : Result :=
  conclude (.div reg1 reg2) s (aluRR s kindsMulDiv (applyArith s.cfg .div) reg1 reg2)

end Sys2Proof.Machine
end

