-- ==== Sys2Proof/Machine/Bitwise.lean ====
section
/-! DEFINITION. The bitwise and shift instructions (45_bitwise_shift.md). -/

namespace Sys2Proof.Machine

/-- AND reg1, reg2 (R183). -/
def execAnd (reg1 reg2 : Byte) (s : State) : Result :=
  conclude (.and reg1 reg2) s (aluRR s kindsBitwise (applyBitwise (· &&& ·)) reg1 reg2)

/-- OR reg1, reg2 (R184). -/
def execOr (reg1 reg2 : Byte) (s : State) : Result :=
  conclude (.or reg1 reg2) s (aluRR s kindsBitwise (applyBitwise (· ||| ·)) reg1 reg2)

/-- XOR reg1, reg2 (R185). -/
def execXor (reg1 reg2 : Byte) (s : State) : Result :=
  conclude (.xor reg1 reg2) s (aluRR s kindsBitwise (applyBitwise (· ^^^ ·)) reg1 reg2)

/-- SHR reg, imm (R186). -/
def execShr (reg : Byte) (imm : Imm) (s : State) : Result :=
  conclude (.shr reg imm) s (aluRI s kindsBitwise (applyShr s.cfg.intOverflow) reg imm)

/-- SHL reg, imm (R187). -/
def execShl (reg : Byte) (imm : Imm) (s : State) : Result :=
  conclude (.shl reg imm) s (aluRI s kindsBitwise (applyShl s.cfg.intOverflow) reg imm)

end Sys2Proof.Machine
end

