-- ==== Sys2Proof/Machine/Flags.lean ====
section
/-! DEFINITION. The comparison of Immediates, which gives the two flags (41_compare_branch.md R120, R121),
and the conditions of the conditional jumps (R125). No other instruction computes a flag (10_state.md
R30). -/

namespace Sys2Proof.Machine

/-- `imm_eq(a, b)` (41_compare_branch.md R120). -/
def immEq (a b : Imm) : Bool :=
  if a.kind ≠ b.kind then false
  else if a.kind = .none then true
  else if a.kind = .f32 then floatEq binary32 a.pat b.pat
  else if a.kind = .f64 then floatEq binary64 a.pat b.pat
  else decide (a.val = b.val)

/-- `imm_gt(a, b)` (41_compare_branch.md R121): by rank across kinds, by value within an integer kind,
by `fgt` within a float kind. -/
def immGt (a b : Imm) : Bool :=
  if a.kind ≠ b.kind then decide (b.kind.rank < a.kind.rank)
  else if a.kind = .none then false
  else if a.kind = .f32 then floatGt binary32 a.pat b.pat
  else if a.kind = .f64 then floatGt binary64 a.pat b.pat
  else decide (b.val < a.val)

/-- JE is taken (41_compare_branch.md R125; the spec's decision D11, log entry 15). -/
def takenJe (s : State) : Bool := s.flagEq

/-- JNE is taken. -/
def takenJne (s : State) : Bool := !s.flagEq

/-- JG is taken. -/
def takenJg (s : State) : Bool := s.flagGt

/-- JL is taken. -/
def takenJl (s : State) : Bool := !s.flagGt && !s.flagEq

end Sys2Proof.Machine
end

