-- ==== Sys2Proof/Machine/Control.lean ====
section
/-! DEFINITION. Compare and control transfer (41_compare_branch.md). No control transfer changes which
instruction executes next (R132): these meanings write `ip` and never `fi`. -/

namespace Sys2Proof.Machine

/-- CMP reg1, reg2 (R122): both flags from the two values. -/
def execCmp (reg1 reg2 : Byte) (s : State) : Result :=
  conclude (.cmp reg1 reg2) s ((readReg s reg1).bind fun v1 => (readReg s reg2).bind fun v2 =>
    .ok (setFlags s (immEq v1 v2) (immGt v1 v2)))

/-- JMP reg (R124). -/
def execJmp (reg : Byte) (s : State) : Result := conclude (.jmp reg) s (jumpReg s reg)

/-- JE reg (R126). -/
def execJe (reg : Byte) (s : State) : Result := conclude (.je reg) s (jumpIf s (takenJe s) reg)

/-- JNE reg (R127). -/
def execJne (reg : Byte) (s : State) : Result := conclude (.jne reg) s (jumpIf s (takenJne s) reg)

/-- JG reg (R128). -/
def execJg (reg : Byte) (s : State) : Result := conclude (.jg reg) s (jumpIf s (takenJg s) reg)

/-- JL reg (R129). -/
def execJl (reg : Byte) (s : State) : Result := conclude (.jl reg) s (jumpIf s (takenJl s) reg)

/-- CALL reg (R130): push the return address, then jump. -/
def execCall (reg : Byte) (s : State) : Result :=
  conclude (.call reg) s ((push s (returnAddress s)).bind fun t => jumpReg t reg)

/-- RET (R131): pop, then write `ip` from a U8 or U16. -/
def execRet (s : State) : Result :=
  conclude .ret s ((pop s).bind fun x =>
    match jumpTarget s.cfg x.1 with
    | some t => .ok (setIp x.2 t)
    | none => .error (.badReturnKind x.1))

end Sys2Proof.Machine
end

