-- ==== Sys2Proof/Machine/HeapAccess.lean ====
section
/-! DEFINITION. Heap loads and stores (42_heap.md): one absolute address, one whole cell. -/

namespace Sys2Proof.Machine

/-- VSTORE addr, imm (R140). -/
def execVstore (addr : Byte) (imm : Imm) (s : State) : Result :=
  conclude (.vstore addr imm) s (heapWrite s addr imm)

/-- VLOAD addr (R141): the destination is the stack. -/
def execVload (addr : Byte) (s : State) : Result :=
  conclude (.vload addr) s ((heapRead s addr).bind fun v => push s v)

/-- VSTORER addr, reg (R142): the register is read first (D27). -/
def execVstorer (addr reg : Byte) (s : State) : Result :=
  conclude (.vstorer addr reg) s ((readReg s reg).bind fun v => heapWrite s addr v)

/-- VLOADR reg, addr (R143): the cell is read first (D27). -/
def execVloadr (reg addr : Byte) (s : State) : Result :=
  conclude (.vloadr reg addr) s ((heapRead s addr).bind fun v => writeReg s reg v)

end Sys2Proof.Machine
end

