-- ==== Sys2Proof/Machine/Move.lean ====
section
/-! DEFINITION. NOP and the register moves (40_move.md). -/

namespace Sys2Proof.Machine

/-- NOP (R110): no state change. -/
def execNop (s : State) : Result := conclude .nop s (.ok s)

/-- MOV reg, imm (R111). -/
def execMov (reg : Byte) (imm : Imm) (s : State) : Result :=
  conclude (.mov reg imm) s (writeReg s reg imm)

/-- MOVR dst, src (R112): the source is read, and checked, first (D27). -/
def execMovr (dst src : Byte) (s : State) : Result :=
  conclude (.movr dst src) s ((readReg s src).bind fun v => writeReg s dst v)

end Sys2Proof.Machine
end

