-- ==== Sys2Proof/Machine/StackAccess.lean ====
section
/-! DEFINITION. The operand stack instructions (43_stack.md). -/

namespace Sys2Proof.Machine

/-- VPUSH imm (R150). -/
def execVpush (imm : Imm) (s : State) : Result := conclude (.vpush imm) s (push s imm)

/-- VPUSHR reg (R151). -/
def execVpushr (reg : Byte) (s : State) : Result :=
  conclude (.vpushr reg) s ((readReg s reg).bind fun v => push s v)

/-- VPOP reg (R152): the stack is popped, and checked, first (D27). -/
def execVpop (reg : Byte) (s : State) : Result :=
  conclude (.vpop reg) s ((pop s).bind fun x => writeReg x.2 reg x.1)

end Sys2Proof.Machine
end

