-- ==== Sys2Proof/Machine/System.lean ====
section
/-! DEFINITION. The observation instructions and HALT (46_system.md). -/

namespace Sys2Proof.Machine

/-- PRINTR reg (R195): the event carries the register's value. -/
def execPrintr (reg : Byte) (s : State) : Result :=
  conclude (.printr reg) s ((readReg s reg).bind fun v => .ok (emit s (.printR v)))

/-- PRINTV addr (R196): the event carries the cell's value. -/
def execPrintv (addr : Byte) (s : State) : Result :=
  conclude (.printv addr) s ((heapRead s addr).bind fun v => .ok (emit s (.printV v)))

/-- HALT (R197): running <- false; the run goes on (D8). -/
def execHalt (s : State) : Result := conclude .halt s (.ok (setRunning s false))

end Sys2Proof.Machine
end

