-- ==== Sys2Proof/Machine/Dispatch.lean ====
section
/-! DEFINITION. The step of 70_reset_and_hazards.md R245: one arm per instruction variant of
30_encoding.md R71, each a call of its meaning. -/

namespace Sys2Proof.Machine

def exec (i : Instr) (s : State) : Host.Outcome State Fault Refusal :=
  match i with
  | .nop => Sys2Proof.Machine.execNop s
  | .mov reg imm => Sys2Proof.Machine.execMov reg imm s
  | .movr dst src => Sys2Proof.Machine.execMovr dst src s
  | .jmp reg => Sys2Proof.Machine.execJmp reg s
  | .je reg => Sys2Proof.Machine.execJe reg s
  | .jne reg => Sys2Proof.Machine.execJne reg s
  | .cmp reg1 reg2 => Sys2Proof.Machine.execCmp reg1 reg2 s
  | .printr reg => Sys2Proof.Machine.execPrintr reg s
  | .printv addr => Sys2Proof.Machine.execPrintv addr s
  | .vstore addr imm => Sys2Proof.Machine.execVstore addr imm s
  | .vload addr => Sys2Proof.Machine.execVload addr s
  | .add reg1 reg2 => Sys2Proof.Machine.execAdd reg1 reg2 s
  | .sub reg1 reg2 => Sys2Proof.Machine.execSub reg1 reg2 s
  | .mul reg1 reg2 => Sys2Proof.Machine.execMul reg1 reg2 s
  | .div reg1 reg2 => Sys2Proof.Machine.execDiv reg1 reg2 s
  | .vstorer addr reg => Sys2Proof.Machine.execVstorer addr reg s
  | .vloadr reg addr => Sys2Proof.Machine.execVloadr reg addr s
  | .vpush imm => Sys2Proof.Machine.execVpush imm s
  | .vpushr reg => Sys2Proof.Machine.execVpushr reg s
  | .vpop reg => Sys2Proof.Machine.execVpop reg s
  | .call reg => Sys2Proof.Machine.execCall reg s
  | .ret => Sys2Proof.Machine.execRet s
  | .halt => Sys2Proof.Machine.execHalt s
  | .jg reg => Sys2Proof.Machine.execJg reg s
  | .jl reg => Sys2Proof.Machine.execJl reg s
  | .and reg1 reg2 => Sys2Proof.Machine.execAnd reg1 reg2 s
  | .or reg1 reg2 => Sys2Proof.Machine.execOr reg1 reg2 s
  | .xor reg1 reg2 => Sys2Proof.Machine.execXor reg1 reg2 s
  | .shr reg imm => Sys2Proof.Machine.execShr reg imm s
  | .shl reg imm => Sys2Proof.Machine.execShl reg imm s

end Sys2Proof.Machine
end

