-- ==== Sys2Proof/Machine/Step.lean ====
section
/-! DEFINITION. One step of the machine: the run loop of 70_reset_and_hazards.md R243, one iteration a
step, and the placing of an instruction where the next step fetches it. -/

namespace Sys2Proof.Machine

/-- One step. From CONSTRUCTED it is the host's `run` event (R243; log entry 8). While RUNNING it fetches
`code[fi]`, executes it and advances, or records the fault; with no instruction left it is DONE. A run
that is over has no step (log entry 9). -/
def step (s : State) : Host.Outcome State Fault Refusal :=
  match s.status with
  | .constructed => .next (startRun s)
  | .running =>
    match fetch s with
    | some i => afterInstr s (exec i s)
    | none => .next (startRun s)
  | .done => whenOver s
  | .faulted => whenOver s

/-- The state with the instruction of the given word as its program, RUNNING at position 0, so that the
very next step executes it (log entry 2). -/
def State.withFetchWord (s : State) (nbits w : Nat) : State := loadProgram s (tableProgram nbits w)

end Sys2Proof.Machine
end

