-- ==== Sys2Proof/WellFormed.lean ====
section
/-! DEFINITION. The static check of an instruction's operands against the machine: every register
operand names one of the 8 registers (10_state.md R25) and every heap address lies below HEAP_CAP
(20_memory.md R53). The decoder makes neither check (30_encoding.md R96): an instruction that fails
one still decodes and still executes, and faults only when it accesses the operand. The check is the
one a host can make when it pairs a program with a heap capacity (70_reset_and_hazards.md R242). -/

namespace Sys2Proof

/-- The register operands of an instruction, in stream order (10_state.md R26, 30_encoding.md R80). -/
def Instr.regOperands : Instr → List Byte
  | .nop | .ret | .halt | .printv _ | .vstore _ _ | .vload _ | .vpush _ => []
  | .mov r _ | .jmp r | .je r | .jne r | .jg r | .jl r | .printr r | .vstorer _ r | .vloadr r _
  | .vpushr r | .vpop r | .call r | .shr r _ | .shl r _ => [r]
  | .movr a b | .cmp a b | .add a b | .sub a b | .mul a b | .div a b | .and a b | .or a b
  | .xor a b => [a, b]

/-- The heap address operands of an instruction (30_encoding.md R80). -/
def Instr.addrOperands : Instr → List Byte
  | .printv a | .vstore a _ | .vload a | .vstorer a _ | .vloadr _ a => [a]
  | .nop | .mov _ _ | .movr _ _ | .jmp _ | .je _ | .jne _ | .cmp _ _ | .printr _ | .add _ _
  | .sub _ _ | .mul _ _ | .div _ _ | .vpush _ | .vpushr _ | .vpop _ | .call _ | .ret | .halt
  | .jg _ | .jl _ | .and _ _ | .or _ _ | .xor _ _ | .shr _ _ | .shl _ _ => []

/-- Every register operand is at most 7 (10_state.md R25). -/
def Instr.regsInRange (i : Instr) : Bool := i.regOperands.all fun r => decide (r.toNat < 8)

/-- Every heap address operand is below HEAP_CAP (20_memory.md R53). -/
def Instr.addrsInRange (heapCap : Nat) (i : Instr) : Bool :=
  i.addrOperands.all fun a => decide (a.toNat < heapCap)

/-- Both checks together. -/
def Instr.wellFormed (heapCap : Nat) (i : Instr) : Bool := i.regsInRange && i.addrsInRange heapCap

/-- Every instruction of a program passes the check. -/
def programWellFormed (heapCap : Nat) (code : List Instr) : Bool :=
  code.all fun i => i.wellFormed heapCap

end Sys2Proof
end

