-- ==== Sys2Proof/Safety.lean ====
section
/-! DEFINITION. The terms claims are made in: the invariants of 10_state.md R46, the terminal states of
R40, and for each instruction what it may write (10_state.md R26, R27, R30, R31, R33, R34, R36) and which
fault it may raise (60_exceptions.md R206). -/

namespace Sys2Proof

/-- The register an instruction writes (10_state.md R26, column "writes"). -/
def Instr.destReg : Instr → Option Byte
  | .mov r _ => some r
  | .movr d _ => some d
  | .vloadr r _ => some r
  | .vpop r => some r
  | .nop | .jmp _ | .je _ | .jne _ | .cmp _ _ | .printr _ | .printv _ | .vstore _ _ | .vload _
  | .add _ _ | .sub _ _ | .mul _ _ | .div _ _ | .vstorer _ _ | .vpush _ | .vpushr _ | .call _ | .ret
  | .halt | .jg _ | .jl _ | .and _ _ | .or _ _ | .xor _ _ | .shr _ _ | .shl _ _ => none

/-- The heap cell an instruction stores to (10_state.md R34): VSTORE and VSTORER only. -/
def Instr.storesTo : Instr → Option Byte
  | .vstore a _ => some a
  | .vstorer a _ => some a
  | .nop | .mov _ _ | .movr _ _ | .jmp _ | .je _ | .jne _ | .cmp _ _ | .printr _ | .printv _ | .vload _
  | .add _ _ | .sub _ _ | .mul _ _ | .div _ _ | .vloadr _ _ | .vpush _ | .vpushr _ | .vpop _ | .call _
  | .ret | .halt | .jg _ | .jl _ | .and _ _ | .or _ _ | .xor _ _ | .shr _ _ | .shl _ _ => none

/-- The instructions that compute in the ALU (44_arithmetic.md, 45_bitwise_shift.md). -/
def Instr.isAlu : Instr → Bool
  | .add _ _ | .sub _ _ | .mul _ _ | .div _ _ | .and _ _ | .or _ _ | .xor _ _ | .shr _ _ | .shl _ _ =>
    true
  | .nop | .mov _ _ | .movr _ _ | .jmp _ | .je _ | .jne _ | .cmp _ _ | .printr _ | .printv _
  | .vstore _ _ | .vload _ | .vstorer _ _ | .vloadr _ _ | .vpush _ | .vpushr _ | .vpop _ | .call _
  | .ret | .halt | .jg _ | .jl _ => false

/-- The instructions that push (10_state.md R33). -/
def Instr.pushes : Instr → Bool
  | .vload _ | .vpush _ | .vpushr _ | .call _ => true
  | i => i.isAlu

/-- The instructions that pop (10_state.md R33). -/
def Instr.pops : Instr → Bool
  | .vpop _ | .ret => true
  | .nop | .mov _ _ | .movr _ _ | .jmp _ | .je _ | .jne _ | .cmp _ _ | .printr _ | .printv _
  | .vstore _ _ | .vload _ | .add _ _ | .sub _ _ | .mul _ _ | .div _ _ | .vstorer _ _ | .vloadr _ _
  | .vpush _ | .vpushr _ | .call _ | .halt | .jg _ | .jl _ | .and _ _ | .or _ _ | .xor _ _ | .shr _ _
  | .shl _ _ => false

/-- The jumps, conditional or not, and CALL: what may raise BadJumpKind (60_exceptions.md R206). -/
def Instr.jumps : Instr → Bool
  | .jmp _ | .je _ | .jne _ | .jg _ | .jl _ | .call _ => true
  | .nop | .mov _ _ | .movr _ _ | .cmp _ _ | .printr _ | .printv _ | .vstore _ _ | .vload _ | .add _ _
  | .sub _ _ | .mul _ _ | .div _ _ | .vstorer _ _ | .vloadr _ _ | .vpush _ | .vpushr _ | .vpop _ | .ret
  | .halt | .and _ _ | .or _ _ | .xor _ _ | .shr _ _ | .shl _ _ => false

/-- The instructions that may write `ip` (10_state.md R27). -/
def Instr.writesIp (i : Instr) : Bool := i.jumps || decide (i = .ret)

/-- CMP, the one instruction that writes the flags (10_state.md R30). -/
def Instr.isCmp : Instr → Bool
  | .cmp _ _ => true
  | .nop | .mov _ _ | .movr _ _ | .jmp _ | .je _ | .jne _ | .printr _ | .printv _ | .vstore _ _
  | .vload _ | .add _ _ | .sub _ _ | .mul _ _ | .div _ _ | .vstorer _ _ | .vloadr _ _ | .vpush _
  | .vpushr _ | .vpop _ | .call _ | .ret | .halt | .jg _ | .jl _ | .and _ _ | .or _ _ | .xor _ _
  | .shr _ _ | .shl _ _ => false

/-- PRINTR and PRINTV, the instructions that emit (46_system.md R198). -/
def Instr.emits : Instr → Bool
  | .printr _ | .printv _ => true
  | .nop | .mov _ _ | .movr _ _ | .jmp _ | .je _ | .jne _ | .cmp _ _ | .vstore _ _ | .vload _ | .add _ _
  | .sub _ _ | .mul _ _ | .div _ _ | .vstorer _ _ | .vloadr _ _ | .vpush _ | .vpushr _ | .vpop _
  | .call _ | .ret | .halt | .jg _ | .jl _ | .and _ _ | .or _ _ | .xor _ _ | .shr _ _ | .shl _ _ => false

/-- The bytes, wherever they stand in a buffer, decode to the instruction, and the decoder goes on right
after them (30_encoding.md R70, R95). -/
abbrev Encodes (bytes : List Byte) (i : Instr) : Prop :=
  ∀ (pos : Nat) (rest : List Byte),
    decodeInstr ⟨pos, bytes ++ rest⟩ = .done (i, ⟨pos + bytes.length, rest⟩)

/-- The bytes spell the immediate: a tag byte and the payload its kind has (30_encoding.md R75, R76);
every tag of 10 or more spells None (R77). -/
def SpellsImm (bytes : List Byte) (v : Imm) : Prop :=
  ∃ tag payload, bytes = tag :: payload ∧ payload.length = payloadBytes (kindOfTag tag) ∧
    (kindOfTag tag).ofPat (leNat payload) = v

/-- The one-byte operands of a format, the tag byte of an immediate among them (30_encoding.md R72). -/
def Format.byteOperands : Format → Nat
  | .n _ => 0
  | .r _ | .a _ | .i _ => 1
  | .rr _ | .ar _ | .ra _ | .ri _ | .ai _ => 2

/-- The formats that end in a tagged immediate (30_encoding.md R72). -/
def Format.hasImmediate : Format → Bool
  | .ri _ | .ai _ | .i _ => true
  | .n _ | .r _ | .a _ | .rr _ | .ar _ | .ra _ => false

/-- The instruction of an arithmetic operator. -/
def arithInstr : ArithOp → Byte → Byte → Instr
  | .add => .add
  | .sub => .sub
  | .mul => .mul
  | .div => .div

/-- A finite pattern: no infinity and no NaN. -/
def isFinite (F : FloatFormat) (p : Nat) : Bool := decide (floatMag F p < infPattern F)

/-- The real number a finite pattern denotes: its units over the units of 1.0. -/
def floatValue (F : FloatFormat) (p : Nat) : ℚ := (signedUnits F p : ℚ) / (unitsOfOne F : ℚ)

/-- The exact result of an arithmetic operator on rational numbers. -/
def exactOp : ArithOp → ℚ → ℚ → ℚ
  | .add => fun a b => a + b
  | .sub => fun a b => a - b
  | .mul => fun a b => a * b
  | .div => fun a b => a / b

end Sys2Proof

namespace Sys2Proof.Machine

/-- There is room for one more entry on the stack: always when it is unbounded (10_state.md R33). -/
abbrev HasRoom (s : State) : Prop := ∀ cap, s.cfg.stackCapacity = some cap → s.stack.length < cap

/-- The matrix of 60_exceptions.md R206: which instruction may raise which cause, StackOverflow only with
a finite STACK_CAPACITY, IntOverflow of ADD, SUB, MUL, SHR, SHL only in Fault mode. A RegIndex or
HeapAddr names an operand of the instruction that is out of range. -/
def mayRaise (cfg : Config) (i : Instr) : Cause → Bool
  | .regIndex r => i.regOperands.contains r && decide (8 ≤ r.toNat)
  | .heapAddr a => i.addrOperands.contains a && decide (cfg.heapCap ≤ a.toNat)
  | .stackEmpty => i.pops
  | .badJumpKind v => i.jumps && (jumpTarget cfg v).isNone
  | .badReturnKind v => decide (i = .ret) && (jumpTarget cfg v).isNone
  | .kindMismatch _ _ => i.isAlu
  | .divideByZero =>
    match i with
    | .div _ _ => true
    | _ => false
  | .intOverflow =>
    match i with
    | .div _ _ => true
    | .add _ _ | .sub _ _ | .mul _ _ | .shr _ _ | .shl _ _ => decide (cfg.intOverflow = .fault)
    | _ => false
  | .stackOverflow => i.pushes && cfg.stackCapacity.isSome

/-- The stack holds at most STACK_CAPACITY entries (10_state.md R46 (f)). -/
def stackWithinCapacity (cfg : Config) (stack : List Imm) : Bool :=
  match cfg.stackCapacity with
  | none => true
  | some cap => decide (stack.length ≤ cap)

/-- FAULT names what faulted (10_state.md R41, 60_exceptions.md R203): the step index and instruction of
an execution fault, or the decoder's own answer. -/
def recordMatches (s : State) : Bool :=
  match s.fault with
  | none => true
  | some (.execution _ k ins) => decide (k = s.fi) && decide (s.code[k]? = some ins)
  | some (.decodeTruncated start pos n) =>
    decide (decode s.prog = .truncated start pos n) && s.code.isEmpty

/-- The position of the run loop fits STATUS (10_state.md R40). -/
def positionFits (s : State) : Bool :=
  match s.status with
  | .constructed => decide (s.fi = 0)
  | .running => decide (s.fi < s.code.length)
  | .done => decide (s.fi = s.code.length)
  | .faulted => true

/-- The invariants of 10_state.md R46 (c) to (f), and that the flags are never both true
(41_compare_branch.md R122): they hold while the machine has not faulted. -/
abbrev liveInv (s : State) : Prop :=
  decode s.prog = .done s.code ∧ s.fi ≤ s.code.length ∧ s.ip ≤ 65535 ∧
    stackWithinCapacity s.cfg s.stack = true ∧ ¬(s.flagEq = true ∧ s.flagGt = true)

/-- The invariant of the machine: R46 while it has not faulted, the form of FAULT always. The form of the
data that stand for the heap and `ip` is kept always, after a fault too, where R204 leaves their contents
unspecified: DESIGN CHOICE, log entries 3, 6 and 11. R46 (a) and (g) hold by the types of `regs` and
`Imm`. -/
abbrev State.Inv (s : State) : Prop :=
  Memory.wf s.heap = true ∧ Memory.below s.cfg.heapCap s.heap = true ∧ s.ip < 2 ^ s.cfg.ipWidth ∧
    (s.fault.isSome = true ↔ s.status = .faulted) ∧ recordMatches s = true ∧
    positionFits s = true ∧ (s.status ≠ .faulted → liveInv s)

/-- A terminal STATUS (10_state.md R40). -/
abbrev State.terminal (s : State) : Prop := s.status = .done ∨ s.status = .faulted

end Sys2Proof.Machine
end

