-- ==== Sys2Proof/Certificates/Slice0/Obligations.lean ====
section
/-! DEFINITION. The statements about the model, from the numbered rules of spec/. A docstring names the
rule, and where a clause rests on a decision of the spec (92_eei_decisions.md), on a passage from general
knowledge (93_implementation_defined.md) or on a choice of the model (notes/assumptions), it says so. -/

open Sys2Proof Sys2Proof.Machine

/-! ### The decoder -/

/-- Words written out from spec/30_encoding.md and the source's own buffer (95_test_vectors.md S1, D16,
D19, D20, D21) decode to the instructions they stand for. -/
def Obligations.WrittenWordsDecode : Prop :=
  decode [1, 1, 3, 100, 0, 1, 2, 3, 0xFE, 0xFF, 6, 0, 1, 2, 2, 7, 0, 22] =
      .done [.mov 1 (.i16 100), .mov 2 (.i16 (-2)), .cmp 0 1, .movr 2 7, .nop, .halt] ∧
    decode [0x09, 5, 1, 0xFF, 0x0F, 3, 2, 0x10, 4, 3, 0x0A, 3, 0x13, 5] =
      .done [.vstore 5 (.i8 (-1)), .vstorer 3 2, .vloadr 4 3, .vload 3, .vpop 5] ∧
    decode [0x03, 0, 0x17, 3, 0x14, 5, 0x15, 0x0E, 6, 7, 0x1B, 4, 5, 0x1D, 1, 2, 4, 0, 0x07, 1] =
      .done [.jmp 0, .jg 3, .call 5, .ret, .div 6 7, .xor 4 5, .shl 1 (.u16 4), .printr 1]

/-- The opcode map of R80 with the formats of R72: every opcode, with every operand byte and every
spelling of an immediate, decodes to its instruction. The operand order of the opcodes the source gives
no bytes for is the spec's decision D21. -/
def Obligations.OpcodeMapDecodes : Prop :=
  ∀ (a b : Byte) (bytes : List Byte) (v : Imm), SpellsImm bytes v →
    Encodes [0] .nop ∧ Encodes (1 :: a :: bytes) (.mov a v) ∧ Encodes [2, a, b] (.movr a b) ∧
    Encodes [3, a] (.jmp a) ∧ Encodes [4, a] (.je a) ∧ Encodes [5, a] (.jne a) ∧
    Encodes [6, a, b] (.cmp a b) ∧ Encodes [7, a] (.printr a) ∧ Encodes [8, a] (.printv a) ∧
    Encodes (9 :: a :: bytes) (.vstore a v) ∧ Encodes [10, a] (.vload a) ∧
    Encodes [11, a, b] (.add a b) ∧ Encodes [12, a, b] (.sub a b) ∧ Encodes [13, a, b] (.mul a b) ∧
    Encodes [14, a, b] (.div a b) ∧ Encodes [15, a, b] (.vstorer a b) ∧
    Encodes [16, a, b] (.vloadr a b) ∧ Encodes (17 :: bytes) (.vpush v) ∧ Encodes [18, a] (.vpushr a) ∧
    Encodes [19, a] (.vpop a) ∧ Encodes [20, a] (.call a) ∧ Encodes [21] .ret ∧ Encodes [22] .halt ∧
    Encodes [23, a] (.jg a) ∧ Encodes [24, a] (.jl a) ∧ Encodes [25, a, b] (.and a b) ∧
    Encodes [26, a, b] (.or a b) ∧ Encodes [27, a, b] (.xor a b) ∧
    Encodes (28 :: a :: bytes) (.shr a v) ∧ Encodes (29 :: a :: bytes) (.shl a v)

/-- R81: a byte 30 to 255 where an opcode is expected produces one NOP, the same variant as opcode 0
produces, and consumes one byte; it takes one position in `code` and moves the rest by one. It is no
error: what follows decodes as it would alone, at offsets one higher. -/
def Obligations.UnknownOpcodeDecodesAsNop : Prop :=
  ∀ (op : Byte), 30 ≤ op.toNat →
    Encodes [op] .nop ∧ Encodes [0] .nop ∧
    ∀ (rest : List Byte),
      (∀ code, decode rest = .done code → decode (op :: rest) = .done (.nop :: code)) ∧
      (∀ start pos n, decode rest = .truncated start pos n →
        decode (op :: rest) = .truncated (start + 1) (pos + 1) n)

/-- R75 (with R54 and R76): each of the tags 0 to 9 takes exactly the payload of its kind, little-endian,
and any other tag is None and takes no payload byte. `b1 ++ b0` puts `b1` in the more significant place. -/
def Obligations.TaggedImmediateDecodes : Prop :=
  ∀ (start pos : Nat) (rest : List Byte) (b0 b1 b2 b3 b4 b5 b6 b7 : Byte),
    takeImm start ⟨pos, 0 :: b0 :: rest⟩ = .done (.u8 b0, ⟨pos + 2, rest⟩) ∧
    takeImm start ⟨pos, 1 :: b0 :: rest⟩ = .done (.i8 b0, ⟨pos + 2, rest⟩) ∧
    takeImm start ⟨pos, 2 :: b0 :: b1 :: rest⟩ = .done (.u16 (b1 ++ b0), ⟨pos + 3, rest⟩) ∧
    takeImm start ⟨pos, 3 :: b0 :: b1 :: rest⟩ = .done (.i16 (b1 ++ b0), ⟨pos + 3, rest⟩) ∧
    takeImm start ⟨pos, 4 :: b0 :: b1 :: b2 :: b3 :: rest⟩ =
      .done (.u32 (b3 ++ b2 ++ b1 ++ b0), ⟨pos + 5, rest⟩) ∧
    takeImm start ⟨pos, 5 :: b0 :: b1 :: b2 :: b3 :: rest⟩ =
      .done (.i32 (b3 ++ b2 ++ b1 ++ b0), ⟨pos + 5, rest⟩) ∧
    takeImm start ⟨pos, 6 :: b0 :: b1 :: b2 :: b3 :: b4 :: b5 :: b6 :: b7 :: rest⟩ =
      .done (.u64 (b7 ++ b6 ++ b5 ++ b4 ++ b3 ++ b2 ++ b1 ++ b0), ⟨pos + 9, rest⟩) ∧
    takeImm start ⟨pos, 7 :: b0 :: b1 :: b2 :: b3 :: b4 :: b5 :: b6 :: b7 :: rest⟩ =
      .done (.i64 (b7 ++ b6 ++ b5 ++ b4 ++ b3 ++ b2 ++ b1 ++ b0), ⟨pos + 9, rest⟩) ∧
    takeImm start ⟨pos, 8 :: b0 :: b1 :: b2 :: b3 :: rest⟩ =
      .done (.f32 (b3 ++ b2 ++ b1 ++ b0), ⟨pos + 5, rest⟩) ∧
    takeImm start ⟨pos, 9 :: b0 :: b1 :: b2 :: b3 :: b4 :: b5 :: b6 :: b7 :: rest⟩ =
      .done (.f64 (b7 ++ b6 ++ b5 ++ b4 ++ b3 ++ b2 ++ b1 ++ b0), ⟨pos + 9, rest⟩) ∧
    ∀ tag : Byte, 10 ≤ tag.toNat → takeImm start ⟨pos, tag :: rest⟩ = .done (.none, ⟨pos + 1, rest⟩)

/-- R82: decoding the canonical encoding of a program gives the program back, for every program: no bit
of any operand is dropped. The canonical spellings of the encoder are those R82 names (log entry 25). -/
def Obligations.DecodeEncodedProgram : Prop :=
  ∀ code : List Instr, decode (encodeProgram code) = .done code

/-- R98 (derived by the spec): a buffer that decodes, followed by any bytes, decodes to its instructions
followed by those of the rest, or faults in the rest, at offsets moved by its length. -/
def Obligations.DecodeOfAppendedBuffer : Prop :=
  ∀ (first second : List Byte) (code : List Instr), decode first = .done code →
    (∀ more, decode second = .done more → decode (first ++ second) = .done (code ++ more)) ∧
    (∀ start pos n, decode second = .truncated start pos n →
      decode (first ++ second) = .truncated (first.length + start) (first.length + pos) n)

/-- R97: the record (start, pos, n) of a truncation. Everything before `start` decodes; the instruction
whose opcode byte stands at `start` truncates with this record; `pos` is the place of the missing operand
and `n` what is wanted there: one byte, when the bytes end among the one-byte operands (the spec's
decision D32, log entry 23), or the payload of the kind whose tag was read; and `pos + n > len(PROG)`. -/
def Obligations.TruncationRecordIsExact : Prop :=
  ∀ (prog : List Byte) (start pos n : Nat), decode prog = .truncated start pos n →
    (∃ code, decode (prog.take start) = .done code) ∧
    decodeInstr ⟨start, prog.drop start⟩ = .truncated start pos n ∧
    start < pos ∧ pos ≤ prog.length ∧ prog.length < pos + n ∧
    ∃ op operands, prog.drop start = op :: operands ∧
      ((operands.length < (formatOf op).byteOperands ∧ pos = start + 1 + operands.length ∧ n = 1) ∨
        (∃ tag, (formatOf op).hasImmediate = true ∧
          operands[(formatOf op).byteOperands - 1]? = some tag ∧
          pos = start + 1 + (formatOf op).byteOperands ∧ n = payloadBytes (kindOfTag tag)))

/-- R98 and R50 (derived by the spec): every instruction takes at least one byte, so `code` has at most as
many instructions as PROG has bytes. -/
def Obligations.CodeNoLongerThanBuffer : Prop :=
  ∀ (prog : List Byte) (code : List Instr), decode prog = .done code → code.length ≤ prog.length

/-- An instruction placed by withFetchWord is what the next step fetches: the machine is RUNNING and the
instruction at `fi` is the one the decoder reads from the word. The load is the model's choice (log
entry 2). -/
def Obligations.PlacedWordIsFetched : Prop :=
  ∀ (s : State) (nbits w : Nat) (i : Instr), decodeTableWord nbits w = some i →
    (s.withFetchWord nbits w).status = .running ∧ fetch (s.withFetchWord nbits w) = some i

/-! ### Construction and the run loop -/

/-- R240 and R45: `construct` of a buffer that decodes puts every piece of state at its reset value. The
values of ip, fi, the flags, running, STATUS, FAULT and OBS are the spec's decisions D3, D6, D9, D10, D28,
D29, D34 (log entry 13); State.reset is the construct of the empty buffer under the model's default
configuration, and `draws` is the model's own (log entries 1, 2, 7). -/
def Obligations.ConstructGivesResetValues : Prop :=
  (∀ (cfg : Config) (prog : List Byte) (code : List Instr), decode prog = .done code →
    ∃ heap, construct cfg prog =
        { cfg := cfg, prog := prog, code := code
          regs := #v[.u8 0, .u8 0, .u8 0, .u8 0, .u8 0, .u8 0, .u8 0, .u8 0]
          stack := [], heap := heap, flagEq := false, flagGt := false, ip := 0, running := true
          fi := 0, status := .constructed, fault := none, obs := [], draws := 0 } ∧
      ∀ a, Memory.read heap a = .u8 0) ∧
  State.reset = construct Config.atReset []

/-- R205 (the spec's decision D31): a truncation anywhere means that no instruction executes: STATUS is
FAULTED at once, FAULT holds the record, there is no code and no event, and a step answers the fault. -/
def Obligations.TruncatedBufferExecutesNothing : Prop :=
  ∀ (cfg : Config) (prog : List Byte) (start pos n : Nat), decode prog = .truncated start pos n →
    (construct cfg prog).status = .faulted ∧
    (construct cfg prog).fault = some (.decodeTruncated start pos n) ∧
    (construct cfg prog).code = [] ∧ (construct cfg prog).obs = [] ∧
    step (construct cfg prog) = .fault (.decodeTruncated start pos n)

/-- R243: the `run` event makes a constructed machine RUNNING, or DONE at once when there is no code, and
changes nothing else. That the first step is the `run` event is the model's choice (log entry 8). -/
def Obligations.RunStartsTheLoop : Prop :=
  ∀ s : State, s.status = .constructed →
    (s.fi < s.code.length → step s = .next { s with status := .running }) ∧
    (s.code.length ≤ s.fi → step s = .next { s with status := .done })

/-- R243, R28: a step of a RUNNING machine executes the instruction at position `fi` of the decoded code.
When it completes, `fi` grows by one and STATUS is DONE exactly after the last one; when it faults,
STATUS and FAULT record it, `fi` does not advance and `code`, OBS, PROG and the configuration stay
(R202, R204). Which instruction executes does not depend on `ip` (R132). -/
def Obligations.StepRunsDecodedInstruction : Prop :=
  ∀ (s : State) (i : Instr), s.status = .running → decode s.prog = .done s.code →
    s.code[s.fi]? = some i →
    (∀ t, exec i s = .next t →
      step s = .next { t with
        fi := t.fi + 1, status := if t.fi + 1 < t.code.length then .running else .done }) ∧
    (∀ f, exec i s = .fault f → ∃ t, step s = .next t ∧ t.status = .faulted ∧ t.fault = some f ∧
      t.fi = s.fi ∧ t.code = s.code ∧ t.obs = s.obs ∧ t.prog = s.prog ∧ t.cfg = s.cfg)

/-- R40, R47: DONE and FAULTED are terminal. A DONE machine has no step and a FAULTED one answers its
record; the form of the two answers is the model's choice (log entry 9). -/
def Obligations.TerminalMachineHasNoStep : Prop :=
  ∀ s : State, (s.status = .done → step s = .refused .runOver) ∧
    (∀ f, s.status = .faulted → s.fault = some f → step s = .fault f)

/-- R46 at construction: whatever the inputs, the invariant holds right after `construct`, and at
State.reset. That the heap data are in canonical form, below HEAP_CAP, and `ip` within its width also when
`construct` leaves the machine FAULTED is the model's choice (log entries 3, 6 and 11): R204 leaves that
state unspecified. -/
def Obligations.InvariantHoldsAtReset : Prop :=
  State.reset.Inv ∧ ∀ (cfg : Config) (prog : List Byte), (construct cfg prog).Inv

/-- R46, R29, R122 (derived by the spec): every step keeps the invariant: while not FAULTED `code` is the
decoding of PROG, `fi` and `ip` stay in range, the stack within its capacity, the flags never both true;
FAULT is valid exactly when FAULTED and names the instruction at `fi`. That the heap is canonical data
below HEAP_CAP, and that this form and the width of `ip` hold of a FAULTED machine too, which R46 and R204
leave out, is the model's choice (log entries 3, 6 and 11). -/
def Obligations.StepKeepsInvariant : Prop :=
  ∀ s t : State, s.Inv → step s = .next t → t.Inv

/-- R134 (derived by the spec): every run ends. From any state of the invariant that is not yet over, some
number of steps, at most the instructions left and the run event (one step of the model, log entry 8), ends in DONE
or FAULTED; it is DONE only with every instruction executed. -/
def Obligations.EveryRunEnds : Prop :=
  ∀ s : State, s.Inv → ¬ s.terminal →
    ∃ k t, k ≤ s.code.length - s.fi + 1 ∧ Sys2Proof.core.run k s = .next t ∧ t.terminal ∧
      (t.status = .done → t.fi = s.code.length)

/-- R32, R36, R47: no step changes `code`, PROG or the configuration, and OBS only grows at its end. -/
def Obligations.StepKeepsCodeAndExtendsObs : Prop :=
  ∀ s t : State, step s = .next t →
    t.code = s.code ∧ t.prog = s.prog ∧ t.cfg = s.cfg ∧ s.obs <+: t.obs

/-! ### Moves, compare and control transfer -/

/-- R110: NOP, spelled 0x00 or any byte 0x1E to 0xFF, completes and changes nothing; in a run only `fi`
advances (and STATUS after the last instruction). -/
def Obligations.NopChangesNothing : Prop :=
  ∀ s : State, exec .nop s = .next s ∧ Encodes [0] .nop ∧
    (∀ op : Byte, 0x1E ≤ op.toNat → Encodes [op] .nop) ∧
    (s.status = .running → s.code[s.fi]? = some .nop →
      step s = .next { s with
        fi := s.fi + 1, status := if s.fi + 1 < s.code.length then .running else .done })

/-- R111: MOV reg, imm: the register receives the whole Immediate; RegIndex when there is no such
register. -/
def Obligations.MovWritesRegister : Prop :=
  ∀ (reg : Byte) (imm : Imm) (s : State),
    (∀ bytes, SpellsImm bytes imm → Encodes (0x01 :: reg :: bytes) (.mov reg imm)) ∧
    (∀ h : reg.toNat < 8,
      exec (.mov reg imm) s = .next { s with regs := s.regs.set reg.toNat imm h }) ∧
    (8 ≤ reg.toNat →
      exec (.mov reg imm) s = .fault (.execution (.regIndex reg) s.fi (.mov reg imm)))

/-- R112: MOVR dst, src copies the whole Immediate, destination first in the stream; onto itself it
changes nothing. That a bad source is reported before a bad destination is the spec's decision D27. -/
def Obligations.MovrCopiesRegister : Prop :=
  ∀ (dst src : Byte) (s : State),
    Encodes [0x02, dst, src] (.movr dst src) ∧
    (∀ (hd : dst.toNat < 8) (hs : src.toNat < 8),
      exec (.movr dst src) s = .next { s with regs := s.regs.set dst.toNat s.regs[src.toNat] hd } ∧
      (dst = src → exec (.movr dst src) s = .next s)) ∧
    (8 ≤ src.toNat →
      exec (.movr dst src) s = .fault (.execution (.regIndex src) s.fi (.movr dst src))) ∧
    (src.toNat < 8 → 8 ≤ dst.toNat →
      exec (.movr dst src) s = .fault (.execution (.regIndex dst) s.fi (.movr dst src)))

/-- R122: CMP reg1, reg2 writes both flags from the two values and nothing else, and never faults on
kinds. The order of the index checks is the spec's decision D27. -/
def Obligations.CmpWritesBothFlags : Prop :=
  ∀ (reg1 reg2 : Byte) (s : State),
    Encodes [0x06, reg1, reg2] (.cmp reg1 reg2) ∧
    (∀ (h1 : reg1.toNat < 8) (h2 : reg2.toNat < 8),
      exec (.cmp reg1 reg2) s = .next { s with
        flagEq := immEq s.regs[reg1.toNat] s.regs[reg2.toNat]
        flagGt := immGt s.regs[reg1.toNat] s.regs[reg2.toNat] }) ∧
    (8 ≤ reg1.toNat →
      exec (.cmp reg1 reg2) s = .fault (.execution (.regIndex reg1) s.fi (.cmp reg1 reg2))) ∧
    (reg1.toNat < 8 → 8 ≤ reg2.toNat →
      exec (.cmp reg1 reg2) s = .fault (.execution (.regIndex reg2) s.fi (.cmp reg1 reg2)))

/-- R120, R121 on kinds and integers: different kinds are never equal and compare by rank; None equals
None; values of one integer kind compare as numbers, signed for signed kinds. The rank table of R22 is
the spec's decision D2 (log entry 14). -/
def Obligations.ComparisonByKindThenValue : Prop :=
  [Kind.none, .u8, .i8, .u16, .i16, .u32, .i32, .u64, .i64, .f32, .f64].map Kind.rank =
      [0, 1, 2, 3, 4, 5, 6, 7, 8, 9, 10] ∧
    ∀ a b : Imm,
      (a.kind ≠ b.kind →
        immEq a b = false ∧ (immGt a b = true ↔ b.kind.rank < a.kind.rank)) ∧
      (a.kind = .none → b.kind = .none → immEq a b = true ∧ immGt a b = false) ∧
      (a.kind = b.kind → a.kind.isInteger = true →
        (immEq a b = true ↔ a.val = b.val) ∧ (immGt a b = true ↔ b.val < a.val))

/-- R120, R121 on floats: two values of one float kind compare by the comparisons of that format, and
these are the IEEE 754 quiet comparisons of the denoted numbers (general knowledge, the spec's decision
D20, log entry 19): a NaN is unordered, -0 equals +0, the infinities are at the ends. -/
def Obligations.FloatComparisonIsNumeric : Prop :=
  (∀ x y : BitVec 32, immEq (.f32 x) (.f32 y) = floatEq binary32 x.toNat y.toNat ∧
    immGt (.f32 x) (.f32 y) = floatGt binary32 x.toNat y.toNat) ∧
  (∀ x y : BitVec 64, immEq (.f64 x) (.f64 y) = floatEq binary64 x.toNat y.toNat ∧
    immGt (.f64 x) (.f64 y) = floatGt binary64 x.toNat y.toNat) ∧
  ∀ F : FloatFormat, F = binary32 ∨ F = binary64 → ∀ a b : Nat,
    (isNaN F a = true ∨ isNaN F b = true → floatEq F a b = false ∧ floatGt F a b = false) ∧
    (isFinite F a = true → isFinite F b = true →
      (floatEq F a b = true ↔ floatValue F a = floatValue F b) ∧
      (floatGt F a b = true ↔ floatValue F b < floatValue F a)) ∧
    (isInf F a = true → isFinite F b = true →
      floatEq F a b = false ∧ floatEq F b a = false ∧
      (floatGt F a b = true ↔ floatSign F a = false) ∧
      (floatGt F b a = true ↔ floatSign F a = true)) ∧
    (isInf F a = true → isInf F b = true →
      (floatEq F a b = true ↔ floatSign F a = floatSign F b) ∧
      (floatGt F a b = true ↔ floatSign F a = false ∧ floatSign F b = true))

/-- R122, R125 (derived by the spec): a CMP never makes both flags true, so after it exactly one of JE, JG
and JL is taken, and JNE exactly when JG or JL is. The conditions are the spec's decision D11. -/
def Obligations.ExactlyOneConditionAfterCmp : Prop :=
  ∀ (reg1 reg2 : Byte) (s t : State), exec (.cmp reg1 reg2) s = .next t →
    ¬(t.flagEq = true ∧ t.flagGt = true) ∧
    ((takenJe t = true ∧ takenJg t = false ∧ takenJl t = false) ∨
      (takenJe t = false ∧ takenJg t = true ∧ takenJl t = false) ∨
      (takenJe t = false ∧ takenJg t = false ∧ takenJl t = true)) ∧
    (takenJne t = true ↔ takenJg t = true ∨ takenJl t = true)

/-- R123, R124: JMP on a register that holds a U8 or U16 writes its zero-extended value to `ip` and
changes nothing else, whatever the length of `code` (the spec's decision D13); every other kind raises
BadJumpKind, and a register index above 7 RegIndex. With IP_WIDTH 16 or more, as R29 asks, the
zero-extended value is the value; what a narrower ip keeps is the model's choice (log entry 3). -/
def Obligations.JmpWritesIp : Prop :=
  ∀ (reg : Byte) (s : State),
    Encodes [0x03, reg] (.jmp reg) ∧
    (∀ h : reg.toNat < 8,
      (∀ v, s.regs[reg.toNat] = .u8 v → exec (.jmp reg) s = .next { s with ip := zext s.cfg.ipWidth v.toNat }) ∧
      (∀ v, s.regs[reg.toNat] = .u16 v → exec (.jmp reg) s = .next { s with ip := zext s.cfg.ipWidth v.toNat }) ∧
      (s.regs[reg.toNat].kind ≠ .u8 → s.regs[reg.toNat].kind ≠ .u16 →
        exec (.jmp reg) s =
          .fault (.execution (.badJumpKind s.regs[reg.toNat]) s.fi (.jmp reg)))) ∧
    (8 ≤ reg.toNat → exec (.jmp reg) s = .fault (.execution (.regIndex reg) s.fi (.jmp reg))) ∧
    (16 ≤ s.cfg.ipWidth → ∀ n, n ≤ 65535 → zext s.cfg.ipWidth n = n)

/-- R125 to R129: JE, JNE, JG and JL with the condition false complete and change nothing, whatever the
register operand (the spec's decision D12); with it true they are JMP: `ip` receives a U8 or U16
zero-extended to IP_WIDTH bits, another kind raises BadJumpKind, a register index above 7 RegIndex. The
conditions are the spec's decision D11 (log entry 15). In 16 bits or more, as R29 asks, the zero-extended
value is the value (JmpWritesIp); what a narrower ip keeps is the model's choice (log entry 3). -/
def Obligations.ConditionalJumps : Prop :=
  ∀ (reg : Byte) (s : State) (i : Instr) (taken : Bool),
    ((i = .je reg ∧ taken = s.flagEq) ∨ (i = .jne reg ∧ taken = !s.flagEq) ∨
      (i = .jg reg ∧ taken = s.flagGt) ∨ (i = .jl reg ∧ taken = (!s.flagGt && !s.flagEq))) →
    (taken = false → exec i s = .next s) ∧
    (taken = true →
      (∀ h : reg.toNat < 8,
        (∀ v, s.regs[reg.toNat] = .u8 v → exec i s = .next { s with ip := zext s.cfg.ipWidth v.toNat }) ∧
        (∀ v, s.regs[reg.toNat] = .u16 v → exec i s = .next { s with ip := zext s.cfg.ipWidth v.toNat }) ∧
        (s.regs[reg.toNat].kind ≠ .u8 → s.regs[reg.toNat].kind ≠ .u16 →
          exec i s = .fault (.execution (.badJumpKind s.regs[reg.toNat]) s.fi i))) ∧
      (8 ≤ reg.toNat → exec i s = .fault (.execution (.regIndex reg) s.fi i)))

/-- R130: CALL pushes U16((ip + 1) mod 65536), then does what JMP does: `ip` receives a U8 or U16
zero-extended to IP_WIDTH bits. Which `ip` is pushed is the spec's decision D14 (log entry 16), the order of
the faults D27. In 16 bits or more, as R29 asks, the zero-extended value is the value (JmpWritesIp); what a
narrower ip keeps is the model's choice (log entry 3). -/
def Obligations.CallPushesReturnAddress : Prop :=
  ∀ (reg : Byte) (s : State),
    Encodes [0x14, reg] (.call reg) ∧
    (HasRoom s →
      (∀ h : reg.toNat < 8,
        (∀ v, s.regs[reg.toNat] = .u8 v → exec (.call reg) s = .next { s with
          stack := s.stack ++ [.u16 (BitVec.ofNat 16 ((s.ip + 1) % 65536))]
          ip := zext s.cfg.ipWidth v.toNat }) ∧
        (∀ v, s.regs[reg.toNat] = .u16 v → exec (.call reg) s = .next { s with
          stack := s.stack ++ [.u16 (BitVec.ofNat 16 ((s.ip + 1) % 65536))]
          ip := zext s.cfg.ipWidth v.toNat }) ∧
        (s.regs[reg.toNat].kind ≠ .u8 → s.regs[reg.toNat].kind ≠ .u16 →
          exec (.call reg) s =
            .fault (.execution (.badJumpKind s.regs[reg.toNat]) s.fi (.call reg)))) ∧
      (8 ≤ reg.toNat → exec (.call reg) s = .fault (.execution (.regIndex reg) s.fi (.call reg)))) ∧
    (¬ HasRoom s → exec (.call reg) s = .fault (.execution .stackOverflow s.fi (.call reg)))

/-- R131: RET pops the top, whoever pushed it, and writes it to `ip` when it is a U8 or U16; another kind
raises BadReturnKind, an empty stack StackEmpty. In 16 bits or more, as R29 asks, the zero-extended value is the
value (the last clause); what a narrower ip keeps is the model's choice (log entry 3). -/
def Obligations.RetPopsIntoIp : Prop :=
  ∀ s : State,
    Encodes [0x15] .ret ∧
    (∀ below v, s.stack = below ++ [.u8 v] →
      exec .ret s = .next { s with stack := below, ip := zext s.cfg.ipWidth v.toNat }) ∧
    (∀ below v, s.stack = below ++ [.u16 v] →
      exec .ret s = .next { s with stack := below, ip := zext s.cfg.ipWidth v.toNat }) ∧
    (∀ below v, s.stack = below ++ [v] → v.kind ≠ .u8 → v.kind ≠ .u16 →
      exec .ret s = .fault (.execution (.badReturnKind v) s.fi .ret)) ∧
    (s.stack = [] → exec .ret s = .fault (.execution .stackEmpty s.fi .ret)) ∧
    (16 ≤ s.cfg.ipWidth → ∀ n, n ≤ 65535 → zext s.cfg.ipWidth n = n)

/-! ### Heap and stack -/

/-- R140: VSTORE addr, imm: the cell receives the whole Immediate, every other cell and everything else
stays; at or above HEAP_CAP it raises HeapAddr. -/
def Obligations.VstoreWritesCell : Prop :=
  ∀ (addr : Byte) (imm : Imm) (s : State),
    (∀ bytes, SpellsImm bytes imm → Encodes (0x09 :: addr :: bytes) (.vstore addr imm)) ∧
    (Memory.wf s.heap = true → addr.toNat < s.cfg.heapCap →
      ∃ heap, exec (.vstore addr imm) s = .next { s with heap := heap } ∧
        Memory.read heap addr.toNat = imm ∧
        ∀ a, a ≠ addr.toNat → Memory.read heap a = Memory.read s.heap a) ∧
    (s.cfg.heapCap ≤ addr.toNat →
      exec (.vstore addr imm) s = .fault (.execution (.heapAddr addr) s.fi (.vstore addr imm)))

/-- R141: VLOAD addr pushes the cell, whatever its kind; the heap stays. HeapAddr at or above HEAP_CAP,
otherwise StackOverflow on a full finite stack. -/
def Obligations.VloadPushesCell : Prop :=
  ∀ (addr : Byte) (s : State),
    Encodes [0x0A, addr] (.vload addr) ∧
    (addr.toNat < s.cfg.heapCap → HasRoom s →
      exec (.vload addr) s =
        .next { s with stack := s.stack ++ [Memory.read s.heap addr.toNat] }) ∧
    (s.cfg.heapCap ≤ addr.toNat →
      exec (.vload addr) s = .fault (.execution (.heapAddr addr) s.fi (.vload addr))) ∧
    (addr.toNat < s.cfg.heapCap → ¬ HasRoom s →
      exec (.vload addr) s = .fault (.execution .stackOverflow s.fi (.vload addr)))

/-- R142: VSTORER addr, reg stores the register's whole value, address first in the stream (the spec's
decision D21); a bad register is reported before a bad address (D27). -/
def Obligations.VstorerStoresRegister : Prop :=
  ∀ (addr reg : Byte) (s : State),
    Encodes [0x0F, addr, reg] (.vstorer addr reg) ∧
    (Memory.wf s.heap = true → ∀ h : reg.toNat < 8, addr.toNat < s.cfg.heapCap →
      ∃ heap, exec (.vstorer addr reg) s = .next { s with heap := heap } ∧
        Memory.read heap addr.toNat = s.regs[reg.toNat] ∧
        ∀ a, a ≠ addr.toNat → Memory.read heap a = Memory.read s.heap a) ∧
    (8 ≤ reg.toNat →
      exec (.vstorer addr reg) s = .fault (.execution (.regIndex reg) s.fi (.vstorer addr reg))) ∧
    (reg.toNat < 8 → s.cfg.heapCap ≤ addr.toNat →
      exec (.vstorer addr reg) s = .fault (.execution (.heapAddr addr) s.fi (.vstorer addr reg)))

/-- R143: VLOADR reg, addr loads the whole cell into the register, register first in the stream (the
spec's decision D21); a bad address is reported before a bad register (D27). -/
def Obligations.VloadrLoadsCell : Prop :=
  ∀ (reg addr : Byte) (s : State),
    Encodes [0x10, reg, addr] (.vloadr reg addr) ∧
    (∀ h : reg.toNat < 8, addr.toNat < s.cfg.heapCap →
      exec (.vloadr reg addr) s =
        .next { s with regs := s.regs.set reg.toNat (Memory.read s.heap addr.toNat) h }) ∧
    (s.cfg.heapCap ≤ addr.toNat →
      exec (.vloadr reg addr) s = .fault (.execution (.heapAddr addr) s.fi (.vloadr reg addr))) ∧
    (8 ≤ reg.toNat → addr.toNat < s.cfg.heapCap →
      exec (.vloadr reg addr) s = .fault (.execution (.regIndex reg) s.fi (.vloadr reg addr)))

/-- The representation of the heap is canonical (log entry 11): two canonical heaps with equal cells are
equal data. -/
def Obligations.HeapDataIsCanonical : Prop :=
  ∀ m m' : Memory, Memory.wf m = true → Memory.wf m' = true →
    (∀ a, Memory.read m a = Memory.read m' a) → m = m'

/-- R150: VPUSH imm appends the Immediate, None included, at the top; StackOverflow only on a full finite
stack. -/
def Obligations.VpushAppends : Prop :=
  ∀ (imm : Imm) (s : State),
    (∀ bytes, SpellsImm bytes imm → Encodes (0x11 :: bytes) (.vpush imm)) ∧
    (HasRoom s → exec (.vpush imm) s = .next { s with stack := s.stack ++ [imm] }) ∧
    (s.cfg.stackCapacity = none → HasRoom s) ∧
    (¬ HasRoom s → exec (.vpush imm) s = .fault (.execution .stackOverflow s.fi (.vpush imm)))

/-- R151: VPUSHR reg appends the register's value at the top; the register stays. RegIndex, otherwise
StackOverflow on a full finite stack. -/
def Obligations.VpushrAppends : Prop :=
  ∀ (reg : Byte) (s : State),
    Encodes [0x12, reg] (.vpushr reg) ∧
    (∀ h : reg.toNat < 8, HasRoom s →
      exec (.vpushr reg) s = .next { s with stack := s.stack ++ [s.regs[reg.toNat]] }) ∧
    (8 ≤ reg.toNat → exec (.vpushr reg) s = .fault (.execution (.regIndex reg) s.fi (.vpushr reg))) ∧
    (reg.toNat < 8 → ¬ HasRoom s →
      exec (.vpushr reg) s = .fault (.execution .stackOverflow s.fi (.vpushr reg)))

/-- R152: VPOP reg removes the top of the stack into the register. That an empty stack is reported before
a bad register is the spec's decision D27. -/
def Obligations.VpopMovesTopToRegister : Prop :=
  ∀ (reg : Byte) (s : State),
    Encodes [0x13, reg] (.vpop reg) ∧
    (∀ (h : reg.toNat < 8) (below : List Imm) (v : Imm), s.stack = below ++ [v] →
      exec (.vpop reg) s = .next { s with stack := below, regs := s.regs.set reg.toNat v h }) ∧
    (s.stack = [] → exec (.vpop reg) s = .fault (.execution .stackEmpty s.fi (.vpop reg))) ∧
    (s.stack ≠ [] → 8 ≤ reg.toNat →
      exec (.vpop reg) s = .fault (.execution (.regIndex reg) s.fi (.vpop reg)))

/-- R153 (derived by the spec): VPUSH v then VPOP r is MOV r, v; with the register already holding v the
pair changes nothing but `fi`, here with the run loop's two steps. -/
def Obligations.PushThenPopIsMov : Prop :=
  ∀ (s : State) (v : Imm) (reg : Byte) (h : reg.toNat < 8), HasRoom s → s.status = .running →
    s.code[s.fi]? = some (.vpush v) → s.code[s.fi + 1]? = some (.vpop reg) →
    ∃ status, Sys2Proof.core.run 2 s =
        .next { s with regs := s.regs.set reg.toNat v h, fi := s.fi + 2, status := status } ∧
      (s.regs[reg.toNat] = v →
        Sys2Proof.core.run 2 s = .next { s with fi := s.fi + 2, status := status })

/-! ### Arithmetic -/

/-- R162, R163, R166, R167, R168 on integers: ADD, SUB and MUL of two values of one supported integer kind
push the exact result when it fits the kind, in both modes; when it does not, Wrap pushes the value of the
kind congruent to it modulo 2^N and Fault raises IntOverflow. INT_OVERFLOW is a parameter (D16) and so is
ADDSUB_KINDS (D15). A result that would be pushed on a full finite stack raises StackOverflow. -/
def Obligations.IntegerAddSubMul : Prop :=
  ∀ (op : ArithOp) (reg1 reg2 : Byte) (s : State) (h1 : reg1.toNat < 8) (h2 : reg2.toNat < 8)
    (k : Kind) (e : Int),
    s.regs[reg1.toNat].kind = k → s.regs[reg2.toNat].kind = k → k.isInteger = true →
    ((op = .add ∧ k ∈ s.cfg.addSubKinds ∧ e = s.regs[reg1.toNat].val + s.regs[reg2.toNat].val) ∨
      (op = .sub ∧ k ∈ s.cfg.addSubKinds ∧ e = s.regs[reg1.toNat].val - s.regs[reg2.toNat].val) ∨
      (op = .mul ∧ e = s.regs[reg1.toNat].val * s.regs[reg2.toNat].val)) →
    (HasRoom s → (k.minVal ≤ e ∧ e ≤ k.maxVal) ∨ s.cfg.intOverflow = .wrap →
      ∃ r : Imm, exec (arithInstr op reg1 reg2) s = .next { s with stack := s.stack ++ [r] } ∧
        r.kind = k ∧ (r.val - e) % ((2 ^ k.width : Nat) : Int) = 0 ∧
        (k.minVal ≤ e ∧ e ≤ k.maxVal → r.val = e)) ∧
    (¬ HasRoom s → (k.minVal ≤ e ∧ e ≤ k.maxVal) ∨ s.cfg.intOverflow = .wrap →
      exec (arithInstr op reg1 reg2) s =
        .fault (.execution .stackOverflow s.fi (arithInstr op reg1 reg2))) ∧
    (¬(k.minVal ≤ e ∧ e ≤ k.maxVal) → s.cfg.intOverflow = .fault →
      exec (arithInstr op reg1 reg2) s =
        .fault (.execution .intOverflow s.fi (arithInstr op reg1 reg2)))

/-- R164, R169 on integers (general knowledge, the spec's decision D17, log entry 17): DIV pushes the
quotient rounded toward zero; a zero divisor raises DivideByZero and min / -1 IntOverflow, in both
modes; a quotient that would be pushed on a full finite stack StackOverflow. -/
def Obligations.IntegerDivision : Prop :=
  ∀ (reg1 reg2 : Byte) (s : State) (h1 : reg1.toNat < 8) (h2 : reg2.toNat < 8) (k : Kind) (a b : Int),
    s.regs[reg1.toNat].kind = k → s.regs[reg2.toNat].kind = k → k.isInteger = true →
    s.regs[reg1.toNat].val = a → s.regs[reg2.toNat].val = b →
    (b = 0 → exec (.div reg1 reg2) s = .fault (.execution .divideByZero s.fi (.div reg1 reg2))) ∧
    (k.isSigned = true → a = k.minVal → b = -1 →
      exec (.div reg1 reg2) s = .fault (.execution .intOverflow s.fi (.div reg1 reg2))) ∧
    (¬ HasRoom s → b ≠ 0 → ¬(k.isSigned = true ∧ a = k.minVal ∧ b = -1) →
      exec (.div reg1 reg2) s = .fault (.execution .stackOverflow s.fi (.div reg1 reg2))) ∧
    (HasRoom s → b ≠ 0 → ¬(k.isSigned = true ∧ a = k.minVal ∧ b = -1) →
      ∃ r : Imm, exec (.div reg1 reg2) s = .next { s with stack := s.stack ++ [r] } ∧
        r.kind = k ∧ r.val.natAbs = a.natAbs / b.natAbs ∧
        (r.val < 0 ↔ ((a < 0 ∧ 0 < b) ∨ (0 < a ∧ b < 0)) ∧ a.natAbs / b.natAbs ≠ 0))

/-- R165, R166 to R169, R170 on floats: ADD, SUB, MUL and DIV of two values of one float kind push what
the FLOAT_OPS record gives for the two patterns, whichever record it is, and fault only on a full finite
stack. For the IEEE 754 record (general knowledge, D19, log entry 4) it is the result of the IEEE 754
operation or, when that is a NaN, some NaN of the format; which one is a free value (log entry 5). The
second half says the same of F64. -/
def Obligations.FloatArithmeticPushes : Prop :=
  ∀ (op : ArithOp) (reg1 reg2 : Byte) (s : State) (h1 : reg1.toNat < 8) (h2 : reg2.toNat < 8),
    (∀ a b : BitVec 32, s.regs[reg1.toNat] = .f32 a → s.regs[reg2.toNat] = .f32 b →
      (op = .add ∨ op = .sub → Kind.f32 ∈ s.cfg.addSubKinds) →
      (HasRoom s → ∃ r, exec (arithInstr op reg1 reg2) s =
          .next { s with stack := s.stack ++ [.f32 r] } ∧
        r = float32 s.cfg.floatOps op a b ∧
        ∀ n, s.cfg.floatOps = .ieee n →
          (∀ p, floatOp binary32 op a.toNat b.toNat = some p → r = BitVec.ofNat 32 p) ∧
          (floatOp binary32 op a.toNat b.toNat = none → isNaN binary32 r.toNat = true)) ∧
      (¬ HasRoom s → exec (arithInstr op reg1 reg2) s =
        .fault (.execution .stackOverflow s.fi (arithInstr op reg1 reg2)))) ∧
    (∀ a b : BitVec 64, s.regs[reg1.toNat] = .f64 a → s.regs[reg2.toNat] = .f64 b →
      (op = .add ∨ op = .sub → Kind.f64 ∈ s.cfg.addSubKinds) →
      (HasRoom s → ∃ r, exec (arithInstr op reg1 reg2) s =
          .next { s with stack := s.stack ++ [.f64 r] } ∧
        r = float64 s.cfg.floatOps op a b ∧
        ∀ n, s.cfg.floatOps = .ieee n →
          (∀ p, floatOp binary64 op a.toNat b.toNat = some p → r = BitVec.ofNat 64 p) ∧
          (floatOp binary64 op a.toNat b.toNat = none → isNaN binary64 r.toNat = true)) ∧
      (¬ HasRoom s → exec (arithInstr op reg1 reg2) s =
        .fault (.execution .stackOverflow s.fi (arithInstr op reg1 reg2))))

/-- R165 (general knowledge, D19): the operations on finite operands are correctly rounded. The result is
a pattern of the format; if it is finite, no finite pattern is nearer to the exact result, and of two
nearest the one with the even pattern is taken (roundTiesToEven); it is infinite exactly when the exact
result reaches the midpoint beyond the largest finite number; its sign is that of a nonzero exact
result. -/
def Obligations.FloatOperationsRoundToNearestEven : Prop :=
  ∀ (F : FloatFormat) (limit : ℚ),
    (F = binary32 ∧ limit = 2 ^ 128 - 2 ^ 103) ∨ (F = binary64 ∧ limit = 2 ^ 1024 - 2 ^ 970) →
    ∀ (op : ArithOp) (a b : Nat), a < 2 * signWeight F → b < 2 * signWeight F →
    isFinite F a = true → isFinite F b = true → (op = .div → isZero F b = false) →
    ∃ p, floatOp F op a b = some p ∧ p < 2 * signWeight F ∧ isNaN F p = false ∧
      (isInf F p = true ↔ limit ≤ |exactOp op (floatValue F a) (floatValue F b)|) ∧
      (exactOp op (floatValue F a) (floatValue F b) ≠ 0 →
        (floatSign F p = true ↔ exactOp op (floatValue F a) (floatValue F b) < 0)) ∧
      (isFinite F p = true → ∀ q, isFinite F q = true →
        |floatValue F p - exactOp op (floatValue F a) (floatValue F b)| ≤
            |floatValue F q - exactOp op (floatValue F a) (floatValue F b)| ∧
        (|floatValue F p - exactOp op (floatValue F a) (floatValue F b)| =
            |floatValue F q - exactOp op (floatValue F a) (floatValue F b)| →
          floatValue F q ≠ floatValue F p → p % 2 = 0))

/-- The special cases of R165 (general knowledge, D19, log entry 4), both formats: NaN operands, infinite
operands, zero operands, division by zero, and the sign of a zero result. `none` says that the result is a
NaN. The rows of R165's table are among the clauses; the others are the IEEE 754 operations it names. -/
def Obligations.FloatSpecialCases : Prop :=
  ∀ F : FloatFormat, F = binary32 ∨ F = binary64 → ∀ a b : Nat,
    a < 2 * signWeight F → b < 2 * signWeight F →
    (isNaN F a = true ∨ isNaN F b = true → ∀ op, floatOp F op a b = none) ∧
    (isInf F a = true → isInf F b = true → floatDiv F a b = none ∧
      (floatSign F a = floatSign F b →
        floatSub F a b = none ∧ floatAdd F a b = some (withSign F (floatSign F a) (infPattern F))) ∧
      (floatSign F a ≠ floatSign F b →
        floatAdd F a b = none ∧ floatSub F a b = some (withSign F (floatSign F a) (infPattern F)))) ∧
    (isInf F a = true → isFinite F b = true →
      floatAdd F a b = some (withSign F (floatSign F a) (infPattern F)) ∧
      floatAdd F b a = some (withSign F (floatSign F a) (infPattern F)) ∧
      floatSub F a b = some (withSign F (floatSign F a) (infPattern F)) ∧
      floatSub F b a = some (withSign F (!floatSign F a) (infPattern F)) ∧
      floatDiv F a b = some (withSign F (floatSign F a != floatSign F b) (infPattern F)) ∧
      floatDiv F b a = some (withSign F (floatSign F a != floatSign F b) 0)) ∧
    (isInf F a = true → isNaN F b = false → isZero F b = false →
      floatMul F a b = some (withSign F (floatSign F a != floatSign F b) (infPattern F)) ∧
      floatMul F b a = some (withSign F (floatSign F a != floatSign F b) (infPattern F))) ∧
    (isZero F a = true → isInf F b = true → floatMul F a b = none ∧ floatMul F b a = none) ∧
    (isZero F a = true → isZero F b = true → floatDiv F a b = none ∧
      floatAdd F a b = some (withSign F (floatSign F a && floatSign F b) 0)) ∧
    (isFinite F a = true → isZero F a = false → isZero F b = true →
      floatDiv F a b = some (withSign F (floatSign F a != floatSign F b) (infPattern F)) ∧
      floatDiv F b a = some (withSign F (floatSign F a != floatSign F b) 0)) ∧
    (isFinite F a = true → isZero F b = true →
      floatMul F a b = some (withSign F (floatSign F a != floatSign F b) 0) ∧
      floatMul F b a = some (withSign F (floatSign F a != floatSign F b) 0)) ∧
    (isFinite F a = true → floatAdd F a (floatNeg F a) = some 0 ∧ floatSub F a a = some 0) ∧
    (isZero F a = true → floatSign F a = true → floatAdd F a a = some (signWeight F))

/-- R160, R161, R171, R180, R182: an ALU instruction on operands of different kinds, or of one kind that
its operator does not support, raises KindMismatch with both operands. None is supported by no operator,
a float kind by no bitwise or shift operator. ADDSUB_KINDS is a parameter (D15). -/
def Obligations.UnsupportedKindsFault : Prop :=
  ∀ (reg1 reg2 : Byte) (imm : Imm) (s : State) (h1 : reg1.toNat < 8) (h2 : reg2.toNat < 8),
    (∀ i : Instr, i = .add reg1 reg2 ∨ i = .sub reg1 reg2 →
      s.regs[reg1.toNat].kind ≠ s.regs[reg2.toNat].kind ∨
        s.regs[reg1.toNat].kind = .none ∨ s.regs[reg1.toNat].kind ∉ s.cfg.addSubKinds →
      exec i s =
        .fault (.execution (.kindMismatch s.regs[reg1.toNat] s.regs[reg2.toNat]) s.fi i)) ∧
    (∀ i : Instr, i = .mul reg1 reg2 ∨ i = .div reg1 reg2 →
      s.regs[reg1.toNat].kind ≠ s.regs[reg2.toNat].kind ∨ s.regs[reg1.toNat].kind = .none →
      exec i s =
        .fault (.execution (.kindMismatch s.regs[reg1.toNat] s.regs[reg2.toNat]) s.fi i)) ∧
    (∀ i : Instr, i = .and reg1 reg2 ∨ i = .or reg1 reg2 ∨ i = .xor reg1 reg2 →
      s.regs[reg1.toNat].kind ≠ s.regs[reg2.toNat].kind ∨
        s.regs[reg1.toNat].kind ∈ [Kind.none, .f32, .f64] →
      exec i s =
        .fault (.execution (.kindMismatch s.regs[reg1.toNat] s.regs[reg2.toNat]) s.fi i)) ∧
    (∀ i : Instr, i = .shr reg1 imm ∨ i = .shl reg1 imm →
      s.regs[reg1.toNat].kind ≠ imm.kind ∨ s.regs[reg1.toNat].kind ∈ [Kind.none, .f32, .f64] →
      exec i s = .fault (.execution (.kindMismatch s.regs[reg1.toNat] imm) s.fi i))

/-- R160, R182 with R25: an ALU instruction on a register index above 7 raises RegIndex, of the first
operand before the second and before anything of the values is looked at (the spec's decision D27, log
entry 21). -/
def Obligations.AluRegisterIndexFaults : Prop :=
  ∀ (reg1 reg2 : Byte) (imm : Imm) (s : State),
    (∀ i : Instr, i ∈ [.add reg1 reg2, .sub reg1 reg2, .mul reg1 reg2, .div reg1 reg2, .and reg1 reg2,
        .or reg1 reg2, .xor reg1 reg2] →
      (8 ≤ reg1.toNat → exec i s = .fault (.execution (.regIndex reg1) s.fi i)) ∧
      (reg1.toNat < 8 → 8 ≤ reg2.toNat → exec i s = .fault (.execution (.regIndex reg2) s.fi i))) ∧
    (∀ i : Instr, i ∈ [.shr reg1 imm, .shl reg1 imm] → 8 ≤ reg1.toNat →
      exec i s = .fault (.execution (.regIndex reg1) s.fi i))

/-! ### Bitwise and shifts -/

/-- R181, R183, R184, R185 (general knowledge, the spec's decision D18, log entry 18): AND, OR and XOR of
two values of one integer kind push the value of that kind whose pattern is, bit by bit, the and, or,
exclusive-or of the two patterns; they never overflow, and raise StackOverflow on a full finite stack. -/
def Obligations.BitwisePushesBitByBit : Prop :=
  ∀ (reg1 reg2 : Byte) (s : State) (h1 : reg1.toNat < 8) (h2 : reg2.toNat < 8) (k : Kind),
    s.regs[reg1.toNat].kind = k → s.regs[reg2.toNat].kind = k → k.isInteger = true →
    ∀ (i : Instr) (f : Bool → Bool → Bool),
      ((i = .and reg1 reg2 ∧ f = fun x y => x && y) ∨ (i = .or reg1 reg2 ∧ f = fun x y => x || y) ∨
        (i = .xor reg1 reg2 ∧ f = fun x y => x != y)) →
      (HasRoom s → ∃ r : Imm, exec i s = .next { s with stack := s.stack ++ [r] } ∧ r.kind = k ∧
        r.pat < 2 ^ k.width ∧
        ∀ n, n < k.width →
          r.pat.testBit n =
            f (s.regs[reg1.toNat].pat.testBit n) (s.regs[reg2.toNat].pat.testBit n)) ∧
      (¬ HasRoom s → exec i s = .fault (.execution .stackOverflow s.fi i))

/-- R186, R187, R188 (general knowledge, the spec's decision D18, log entry 18): an amount 0 to N - 1 is
taken as it is in both modes; any other is its pattern modulo N in Wrap mode and raises IntOverflow in
Fault mode. SHR pushes the floor of the value over 2^a (logical for unsigned, arithmetic for signed
kinds); SHL pushes the pattern times 2^a modulo 2^N, lost bits being no overflow. A result that would be
pushed on a full finite stack raises StackOverflow. -/
def Obligations.ShiftsPush : Prop :=
  ∀ (reg : Byte) (imm : Imm) (s : State) (h : reg.toNat < 8) (k : Kind),
    s.regs[reg.toNat].kind = k → imm.kind = k → k.isInteger = true →
    (HasRoom s → ∀ a : Nat,
      ((0 ≤ imm.val ∧ imm.val < k.width ∧ (a : Int) = imm.val) ∨
        (¬(0 ≤ imm.val ∧ imm.val < k.width) ∧ s.cfg.intOverflow = .wrap ∧ a = imm.pat % k.width)) →
      (∃ r : Imm, exec (.shr reg imm) s = .next { s with stack := s.stack ++ [r] } ∧ r.kind = k ∧
        r.val = s.regs[reg.toNat].val / ((2 ^ a : Nat) : Int)) ∧
      (∃ r : Imm, exec (.shl reg imm) s = .next { s with stack := s.stack ++ [r] } ∧ r.kind = k ∧
        r.pat = s.regs[reg.toNat].pat * 2 ^ a % 2 ^ k.width)) ∧
    (¬ HasRoom s → (0 ≤ imm.val ∧ imm.val < k.width) ∨ s.cfg.intOverflow = .wrap →
      exec (.shr reg imm) s = .fault (.execution .stackOverflow s.fi (.shr reg imm)) ∧
      exec (.shl reg imm) s = .fault (.execution .stackOverflow s.fi (.shl reg imm))) ∧
    (¬(0 ≤ imm.val ∧ imm.val < k.width) → s.cfg.intOverflow = .fault →
      exec (.shr reg imm) s = .fault (.execution .intOverflow s.fi (.shr reg imm)) ∧
      exec (.shl reg imm) s = .fault (.execution .intOverflow s.fi (.shl reg imm)))

/-! ### Observation and HALT -/

/-- R195: PRINTR reg appends PrintR of the register's value to OBS and changes nothing else; RegIndex when
there is no such register. That there is an event is the spec's decision D29 (log entry 22). -/
def Obligations.PrintrEmitsRegister : Prop :=
  ∀ (reg : Byte) (s : State),
    Encodes [0x07, reg] (.printr reg) ∧
    (∀ h : reg.toNat < 8,
      exec (.printr reg) s = .next { s with obs := s.obs ++ [.printR s.regs[reg.toNat]] }) ∧
    (8 ≤ reg.toNat → exec (.printr reg) s = .fault (.execution (.regIndex reg) s.fi (.printr reg)))

/-- R196: PRINTV addr appends PrintV of the cell's value to OBS and changes nothing else; HeapAddr at or
above HEAP_CAP. That there is an event is the spec's decision D29 (log entry 22). -/
def Obligations.PrintvEmitsCell : Prop :=
  ∀ (addr : Byte) (s : State),
    Encodes [0x08, addr] (.printv addr) ∧
    (addr.toNat < s.cfg.heapCap →
      exec (.printv addr) s =
        .next { s with obs := s.obs ++ [.printV (Memory.read s.heap addr.toNat)] }) ∧
    (s.cfg.heapCap ≤ addr.toNat →
      exec (.printv addr) s = .fault (.execution (.heapAddr addr) s.fi (.printv addr)))

/-- R197: HALT writes running <- false and nothing else; it cannot fault, and the run goes on: the step
advances `fi` as after any instruction (the spec's decision D8, log entry 24). -/
def Obligations.HaltClearsRunningOnly : Prop :=
  ∀ s : State,
    Encodes [0x16] .halt ∧ exec .halt s = .next { s with running := false } ∧
    (s.status = .running → s.code[s.fi]? = some .halt → s.fi + 1 < s.code.length →
      step s = .next { s with running := false, fi := s.fi + 1 })

/-! ### Frames and whole-machine rules -/

/-- R28, R32, R245: no instruction, of any kind, changes `fi`, `code`, PROG, the configuration, STATUS or
FAULT; these are the sequencer's. -/
def Obligations.NoInstructionTouchesSequencer : Prop :=
  ∀ (i : Instr) (s t : State), exec i s = .next t →
    t.cfg = s.cfg ∧ t.prog = s.prog ∧ t.code = s.code ∧ t.fi = s.fi ∧ t.status = s.status ∧
      t.fault = s.fault

/-- R24, R26: a register other than the destination of the instruction is unchanged (MOV, MOVR, VLOADR
and VPOP have a destination register; no other instruction has, the ALU ones included). -/
def Obligations.RegistersChangeOnlyAtDestination : Prop :=
  ∀ (i : Instr) (s t : State), exec i s = .next t → ∀ (n : Nat) (h : n < 8),
    (∀ r : Byte, i.destReg = some r → r.toNat ≠ n) → t.regs[n] = s.regs[n]

/-- R30, R31, R27: an instruction other than CMP leaves both flags, one other than HALT leaves running, one
other than JMP, JE, JNE, JG, JL, CALL and RET leaves `ip`, one other than PRINTR and PRINTV leaves OBS, and
none advances the model's own draw counter (log entry 7). -/
def Obligations.ControlStateChangesOnlyByItsInstructions : Prop :=
  ∀ (i : Instr) (s t : State), exec i s = .next t →
    (i.isCmp = false → t.flagEq = s.flagEq ∧ t.flagGt = s.flagGt) ∧
    (i ≠ .halt → t.running = s.running) ∧
    (i.writesIp = false → t.ip = s.ip) ∧
    (i.emits = false → t.obs = s.obs) ∧
    t.draws = s.draws

/-- R34, R51, R56: every cell other than the one the instruction stores to reads as before, every cell for
an instruction that stores nothing (all but VSTORE and VSTORER), and no instruction reaches a cell at 256
or above. -/
def Obligations.HeapChangesOnlyAtStoredCell : Prop :=
  ∀ (i : Instr) (s t : State), Memory.wf s.heap = true → exec i s = .next t → ∀ a : Nat,
    ((∀ b : Byte, i.storesTo = some b → b.toNat ≠ a) → Memory.read t.heap a = Memory.read s.heap a) ∧
    (256 ≤ a → Memory.read t.heap a = Memory.read s.heap a)

/-- R33: the stack changes at its top only: an instruction that pushes adds exactly one entry, one that
pops removes exactly one, any other leaves it. -/
def Obligations.StackChangesOnlyAtTop : Prop :=
  ∀ (i : Instr) (s t : State), exec i s = .next t →
    (i.pushes = true → ∃ v, t.stack = s.stack ++ [v]) ∧
    (i.pops = true → ∃ v, s.stack = t.stack ++ [v]) ∧
    (i.pushes = false → i.pops = false → t.stack = s.stack)

/-- R206 (derived by the spec), R203, R245: an instruction answers a next state or a fault, never a
refusal; a fault carries the step index and the instruction, and its cause is one the matrix of R206
allows for the instruction: StackOverflow only with a finite STACK_CAPACITY, IntOverflow of ADD, SUB, MUL,
SHR and SHL only in Fault mode, RegIndex and HeapAddr only for an operand that is out of range. -/
def Obligations.FaultsOnlyAsTheMatrixAllows : Prop :=
  ∀ (i : Instr) (s : State),
    (∀ why, exec i s ≠ .refused why) ∧
    (∀ f, exec i s = .fault f → ∃ c, f = .execution c s.fi i ∧ mayRaise s.cfg i c = true)

/-- R31: nothing reads running. With another value of it every instruction does the same, the bit itself
apart: HALT still clears it and no other instruction touches it. -/
def Obligations.RunningIsNeverRead : Prop :=
  ∀ (i : Instr) (s : State) (b : Bool),
    (∀ t, exec i s = .next t →
      exec i { s with running := b } =
        .next { t with running := if i = .halt then false else b }) ∧
    (∀ f, exec i s = .fault f → exec i { s with running := b } = .fault f)

/-- R195, R36: nothing reads OBS. Whatever events came before, an instruction does the same and emits the
same event, if any. -/
def Obligations.ObsIsNeverRead : Prop :=
  ∀ (i : Instr) (s : State) (before : List Event),
    (∀ t, exec i s = .next t → ∃ emitted, t.obs = s.obs ++ emitted ∧
      exec i { s with obs := before } = .next { t with obs := before ++ emitted }) ∧
    (∀ f, exec i s = .fault f → exec i { s with obs := before } = .fault f)

/-- R27: `ip` is read by CALL alone. With another value of it every other instruction does the same: it
answers the same state but for `ip`, which is then what it was set to or, for a control transfer that
writes it, the same target. -/
def Obligations.IpIsReadOnlyByCall : Prop :=
  ∀ (i : Instr) (s : State) (x : Nat), (∀ r, i ≠ .call r) →
    (∀ t, exec i s = .next t →
      exec i { s with ip := x } = .next { t with ip := x } ∨ exec i { s with ip := x } = .next t) ∧
    (∀ f, exec i s = .fault f → exec i { s with ip := x } = .fault f)
end

