-- ==== Sys2Proof/Laws/Memory.lean ====
section
/-! SUPPORT. The laws of the heap as data: a read after a write, and that every memory operation keeps the
canonical form and the bound of HEAP_CAP. -/

namespace Sys2Proof.Machine

@[simp] theorem Memory.read_nil (a : Nat) : Memory.read [] a = blankCell := rfl

theorem Memory.read_cons (b : Nat) (w : Imm) (m : Memory) (a : Nat) :
    Memory.read ((b, w) :: m) a = if a = b then w else Memory.read m a := rfl

/-- Below its first possible address a canonical memory holds blank cells. -/
theorem Memory.read_below {lo a : Nat} {m : Memory} (hm : Memory.wfFrom lo m = true) (ha : a < lo) :
    Memory.read m a = blankCell := by
  induction m generalizing lo with
  | nil => rfl
  | cons c m ih =>
    obtain ⟨b, w⟩ := c
    simp only [Memory.wfFrom, Bool.and_eq_true, decide_eq_true_eq] at hm
    rw [Memory.read_cons, if_neg (by omega)]
    exact ih hm.2 (by omega)

theorem Memory.wfFrom_mono {lo lo' : Nat} {m : Memory} (h : lo' ≤ lo)
    (hm : Memory.wfFrom lo m = true) : Memory.wfFrom lo' m = true := by
  cases m with
  | nil => rfl
  | cons c m =>
    simp only [Memory.wfFrom, Bool.and_eq_true, decide_eq_true_eq] at hm ⊢
    exact ⟨⟨by omega, hm.1.2⟩, hm.2⟩

theorem Memory.read_cell {a : Nat} {v : Imm} {m : Memory} (hm : Memory.wfFrom (a + 1) m = true)
    (b : Nat) : Memory.read (Memory.cell a v m) b = if b = a then v else Memory.read m b := by
  unfold Memory.cell
  split
  · rename_i hv
    split
    · rename_i hb; rw [hb, Memory.read_below hm (by omega), hv]
    · rfl
  · rfl

/-- A read after a write: the value written at its address, the old value everywhere else. -/
theorem Memory.read_write {lo : Nat} {m : Memory} (hm : Memory.wfFrom lo m = true) (a : Nat) (v : Imm)
    (b : Nat) : Memory.read (Memory.write m a v) b = if b = a then v else Memory.read m b := by
  induction m generalizing lo with
  | nil => exact Memory.read_cell (by rfl) b
  | cons c m ih =>
    obtain ⟨k, w⟩ := c
    simp only [Memory.wfFrom, Bool.and_eq_true, decide_eq_true_eq] at hm
    unfold Memory.write
    split
    · rename_i hlt
      refine Memory.read_cell ?_ b
      simp only [Memory.wfFrom, Bool.and_eq_true, decide_eq_true_eq]
      exact ⟨⟨by omega, hm.1.2⟩, hm.2⟩
    · split
      · rename_i _ heq
        subst heq
        rw [Memory.read_cell hm.2, Memory.read_cons]
        split <;> simp_all
      · rename_i _ hne
        rw [Memory.read_cons, Memory.read_cons, ih hm.2]
        split
        · rename_i hbk; rw [if_neg (by omega)]
        · rfl

theorem Memory.wfFrom_cell {lo a : Nat} {v : Imm} {m : Memory} (hlo : lo ≤ a)
    (hm : Memory.wfFrom (a + 1) m = true) : Memory.wfFrom lo (Memory.cell a v m) = true := by
  unfold Memory.cell
  split
  · exact Memory.wfFrom_mono (by omega) hm
  · rename_i hv
    simp only [Memory.wfFrom, Bool.and_eq_true, decide_eq_true_eq]
    exact ⟨⟨hlo, hv⟩, hm⟩

theorem Memory.wfFrom_write {lo : Nat} {m : Memory} (hm : Memory.wfFrom lo m = true) {a : Nat}
    (hlo : lo ≤ a) (v : Imm) : Memory.wfFrom lo (Memory.write m a v) = true := by
  induction m generalizing lo with
  | nil => exact Memory.wfFrom_cell hlo (by rfl)
  | cons c m ih =>
    obtain ⟨k, w⟩ := c
    simp only [Memory.wfFrom, Bool.and_eq_true, decide_eq_true_eq] at hm
    unfold Memory.write
    split
    · rename_i hlt
      refine Memory.wfFrom_cell hlo ?_
      simp only [Memory.wfFrom, Bool.and_eq_true, decide_eq_true_eq]
      exact ⟨⟨by omega, hm.1.2⟩, hm.2⟩
    · split
      · rename_i _ heq
        subst heq
        exact Memory.wfFrom_cell hlo hm.2
      · simp only [Memory.wfFrom, Bool.and_eq_true, decide_eq_true_eq]
        exact ⟨⟨hm.1.1, hm.1.2⟩, ih hm.2 (by omega)⟩

/-- A write keeps the canonical form. -/
theorem Memory.wf_write {m : Memory} (hm : Memory.wf m = true) (a : Nat) (v : Imm) :
    Memory.wf (Memory.write m a v) = true := Memory.wfFrom_write hm (Nat.zero_le a) v

theorem Memory.below_cell {cap a : Nat} {v : Imm} {m : Memory} (ha : a < cap)
    (hm : Memory.below cap m = true) : Memory.below cap (Memory.cell a v m) = true := by
  unfold Memory.cell
  split
  · exact hm
  · simp only [Memory.below, List.all_cons, Bool.and_eq_true, decide_eq_true_eq] at hm ⊢
    exact ⟨ha, hm⟩

/-- A write to a cell that exists keeps the bound. -/
theorem Memory.below_write {cap : Nat} {m : Memory} (hm : Memory.below cap m = true) {a : Nat}
    (ha : a < cap) (v : Imm) : Memory.below cap (Memory.write m a v) = true := by
  induction m with
  | nil => exact Memory.below_cell ha hm
  | cons c m ih =>
    obtain ⟨k, w⟩ := c
    have hm' := hm
    simp only [Memory.below, List.all_cons, Bool.and_eq_true, decide_eq_true_eq] at hm'
    unfold Memory.write
    split
    · exact Memory.below_cell ha hm
    · split
      · exact Memory.below_cell ha hm'.2
      · simp only [Memory.below, List.all_cons, Bool.and_eq_true, decide_eq_true_eq]
        exact ⟨hm'.1, ih hm'.2⟩

theorem Memory.foldl_write_keeps {cap : Nat} (cells : List (Nat × Imm)) (m : Memory)
    (hc : ∀ c ∈ cells, c.1 < cap) (hw : Memory.wf m = true) (hb : Memory.below cap m = true) :
    Memory.wf (cells.foldl (fun m c => Memory.write m c.1 c.2) m) = true ∧
      Memory.below cap (cells.foldl (fun m c => Memory.write m c.1 c.2) m) = true := by
  induction cells generalizing m with
  | nil => exact ⟨hw, hb⟩
  | cons c cells ih =>
    exact ih _ (fun d hd => hc d (List.mem_cons_of_mem _ hd)) (Memory.wf_write hw _ _)
      (Memory.below_write hb (hc c List.mem_cons_self) _)

theorem Memory.ofCells_keeps (cap : Nat) (cells : List (Nat × Imm)) :
    Memory.wf (Memory.ofCells cap cells) = true ∧
      Memory.below cap (Memory.ofCells cap cells) = true :=
  Memory.foldl_write_keeps _ _ (fun c hc => by simpa using (List.mem_filter.mp hc).2) rfl rfl

/-- The memory of any cells is canonical. -/
theorem Memory.wf_ofCells (cap : Nat) (cells : List (Nat × Imm)) :
    Memory.wf (Memory.ofCells cap cells) = true := (Memory.ofCells_keeps cap cells).1

/-- The memory of any cells holds only cells that exist. -/
theorem Memory.below_ofCells (cap : Nat) (cells : List (Nat × Imm)) :
    Memory.below cap (Memory.ofCells cap cells) = true := (Memory.ofCells_keeps cap cells).2

/-- The heap right after reset is canonical. -/
theorem reset_memory_wf : Memory.wf State.reset.heap = true := rfl

end Sys2Proof.Machine
end

