-- ==== Sys2Proof/Laws/State.lean ====
section
/-! SUPPORT. What each named update of the state leaves in each field: one lemma per field per update, so
that no proof unfolds an update. -/

namespace Sys2Proof.Machine

variable (s : State)

/-! ### emit -/

@[simp] theorem emit_cfg (e : Event) : (emit s e).cfg = s.cfg := rfl
@[simp] theorem emit_prog (e : Event) : (emit s e).prog = s.prog := rfl
@[simp] theorem emit_code (e : Event) : (emit s e).code = s.code := rfl
@[simp] theorem emit_regs (e : Event) : (emit s e).regs = s.regs := rfl
@[simp] theorem emit_stack (e : Event) : (emit s e).stack = s.stack := rfl
@[simp] theorem emit_heap (e : Event) : (emit s e).heap = s.heap := rfl
@[simp] theorem emit_flagEq (e : Event) : (emit s e).flagEq = s.flagEq := rfl
@[simp] theorem emit_flagGt (e : Event) : (emit s e).flagGt = s.flagGt := rfl
@[simp] theorem emit_ip (e : Event) : (emit s e).ip = s.ip := rfl
@[simp] theorem emit_running (e : Event) : (emit s e).running = s.running := rfl
@[simp] theorem emit_fi (e : Event) : (emit s e).fi = s.fi := rfl
@[simp] theorem emit_status (e : Event) : (emit s e).status = s.status := rfl
@[simp] theorem emit_fault (e : Event) : (emit s e).fault = s.fault := rfl
@[simp] theorem emit_obs (e : Event) : (emit s e).obs = s.obs ++ [e] := rfl
@[simp] theorem emit_draws (e : Event) : (emit s e).draws = s.draws := rfl

/-! ### setFlags -/

@[simp] theorem setFlags_cfg (eq gt : Bool) : (setFlags s eq gt).cfg = s.cfg := rfl
@[simp] theorem setFlags_prog (eq gt : Bool) : (setFlags s eq gt).prog = s.prog := rfl
@[simp] theorem setFlags_code (eq gt : Bool) : (setFlags s eq gt).code = s.code := rfl
@[simp] theorem setFlags_regs (eq gt : Bool) : (setFlags s eq gt).regs = s.regs := rfl
@[simp] theorem setFlags_stack (eq gt : Bool) : (setFlags s eq gt).stack = s.stack := rfl
@[simp] theorem setFlags_heap (eq gt : Bool) : (setFlags s eq gt).heap = s.heap := rfl
@[simp] theorem setFlags_flagEq (eq gt : Bool) : (setFlags s eq gt).flagEq = eq := rfl
@[simp] theorem setFlags_flagGt (eq gt : Bool) : (setFlags s eq gt).flagGt = gt := rfl
@[simp] theorem setFlags_ip (eq gt : Bool) : (setFlags s eq gt).ip = s.ip := rfl
@[simp] theorem setFlags_running (eq gt : Bool) : (setFlags s eq gt).running = s.running := rfl
@[simp] theorem setFlags_fi (eq gt : Bool) : (setFlags s eq gt).fi = s.fi := rfl
@[simp] theorem setFlags_status (eq gt : Bool) : (setFlags s eq gt).status = s.status := rfl
@[simp] theorem setFlags_fault (eq gt : Bool) : (setFlags s eq gt).fault = s.fault := rfl
@[simp] theorem setFlags_obs (eq gt : Bool) : (setFlags s eq gt).obs = s.obs := rfl
@[simp] theorem setFlags_draws (eq gt : Bool) : (setFlags s eq gt).draws = s.draws := rfl

/-! ### setIp -/

@[simp] theorem setIp_cfg (t : Nat) : (setIp s t).cfg = s.cfg := rfl
@[simp] theorem setIp_prog (t : Nat) : (setIp s t).prog = s.prog := rfl
@[simp] theorem setIp_code (t : Nat) : (setIp s t).code = s.code := rfl
@[simp] theorem setIp_regs (t : Nat) : (setIp s t).regs = s.regs := rfl
@[simp] theorem setIp_stack (t : Nat) : (setIp s t).stack = s.stack := rfl
@[simp] theorem setIp_heap (t : Nat) : (setIp s t).heap = s.heap := rfl
@[simp] theorem setIp_flagEq (t : Nat) : (setIp s t).flagEq = s.flagEq := rfl
@[simp] theorem setIp_flagGt (t : Nat) : (setIp s t).flagGt = s.flagGt := rfl
@[simp] theorem setIp_ip (t : Nat) : (setIp s t).ip = t := rfl
@[simp] theorem setIp_running (t : Nat) : (setIp s t).running = s.running := rfl
@[simp] theorem setIp_fi (t : Nat) : (setIp s t).fi = s.fi := rfl
@[simp] theorem setIp_status (t : Nat) : (setIp s t).status = s.status := rfl
@[simp] theorem setIp_fault (t : Nat) : (setIp s t).fault = s.fault := rfl
@[simp] theorem setIp_obs (t : Nat) : (setIp s t).obs = s.obs := rfl
@[simp] theorem setIp_draws (t : Nat) : (setIp s t).draws = s.draws := rfl

/-! ### setRunning -/

@[simp] theorem setRunning_cfg (b : Bool) : (setRunning s b).cfg = s.cfg := rfl
@[simp] theorem setRunning_prog (b : Bool) : (setRunning s b).prog = s.prog := rfl
@[simp] theorem setRunning_code (b : Bool) : (setRunning s b).code = s.code := rfl
@[simp] theorem setRunning_regs (b : Bool) : (setRunning s b).regs = s.regs := rfl
@[simp] theorem setRunning_stack (b : Bool) : (setRunning s b).stack = s.stack := rfl
@[simp] theorem setRunning_heap (b : Bool) : (setRunning s b).heap = s.heap := rfl
@[simp] theorem setRunning_flagEq (b : Bool) : (setRunning s b).flagEq = s.flagEq := rfl
@[simp] theorem setRunning_flagGt (b : Bool) : (setRunning s b).flagGt = s.flagGt := rfl
@[simp] theorem setRunning_ip (b : Bool) : (setRunning s b).ip = s.ip := rfl
@[simp] theorem setRunning_running (b : Bool) : (setRunning s b).running = b := rfl
@[simp] theorem setRunning_fi (b : Bool) : (setRunning s b).fi = s.fi := rfl
@[simp] theorem setRunning_status (b : Bool) : (setRunning s b).status = s.status := rfl
@[simp] theorem setRunning_fault (b : Bool) : (setRunning s b).fault = s.fault := rfl
@[simp] theorem setRunning_obs (b : Bool) : (setRunning s b).obs = s.obs := rfl
@[simp] theorem setRunning_draws (b : Bool) : (setRunning s b).draws = s.draws := rfl

/-! ### startRun -/

@[simp] theorem startRun_cfg : (startRun s).cfg = s.cfg := rfl
@[simp] theorem startRun_prog : (startRun s).prog = s.prog := rfl
@[simp] theorem startRun_code : (startRun s).code = s.code := rfl
@[simp] theorem startRun_regs : (startRun s).regs = s.regs := rfl
@[simp] theorem startRun_stack : (startRun s).stack = s.stack := rfl
@[simp] theorem startRun_heap : (startRun s).heap = s.heap := rfl
@[simp] theorem startRun_flagEq : (startRun s).flagEq = s.flagEq := rfl
@[simp] theorem startRun_flagGt : (startRun s).flagGt = s.flagGt := rfl
@[simp] theorem startRun_ip : (startRun s).ip = s.ip := rfl
@[simp] theorem startRun_running : (startRun s).running = s.running := rfl
@[simp] theorem startRun_fi : (startRun s).fi = s.fi := rfl
@[simp] theorem startRun_status : (startRun s).status = runStatus s.fi s.code := rfl
@[simp] theorem startRun_fault : (startRun s).fault = s.fault := rfl
@[simp] theorem startRun_obs : (startRun s).obs = s.obs := rfl
@[simp] theorem startRun_draws : (startRun s).draws = s.draws := rfl

/-! ### advance -/

@[simp] theorem advance_cfg : (advance s).cfg = s.cfg := rfl
@[simp] theorem advance_prog : (advance s).prog = s.prog := rfl
@[simp] theorem advance_code : (advance s).code = s.code := rfl
@[simp] theorem advance_regs : (advance s).regs = s.regs := rfl
@[simp] theorem advance_stack : (advance s).stack = s.stack := rfl
@[simp] theorem advance_heap : (advance s).heap = s.heap := rfl
@[simp] theorem advance_flagEq : (advance s).flagEq = s.flagEq := rfl
@[simp] theorem advance_flagGt : (advance s).flagGt = s.flagGt := rfl
@[simp] theorem advance_ip : (advance s).ip = s.ip := rfl
@[simp] theorem advance_running : (advance s).running = s.running := rfl
@[simp] theorem advance_fi : (advance s).fi = s.fi + 1 := rfl
@[simp] theorem advance_status : (advance s).status = runStatus (s.fi + 1) s.code := rfl
@[simp] theorem advance_fault : (advance s).fault = s.fault := rfl
@[simp] theorem advance_obs : (advance s).obs = s.obs := rfl
@[simp] theorem advance_draws : (advance s).draws = s.draws := rfl

/-! ### recordFault -/

@[simp] theorem recordFault_cfg (r : Fault) : (recordFault s r).cfg = s.cfg := rfl
@[simp] theorem recordFault_prog (r : Fault) : (recordFault s r).prog = s.prog := rfl
@[simp] theorem recordFault_code (r : Fault) : (recordFault s r).code = s.code := rfl
@[simp] theorem recordFault_regs (r : Fault) :
    (recordFault s r).regs = (Config.residue s.draws (machineData s)).regs := rfl
@[simp] theorem recordFault_stack (r : Fault) :
    (recordFault s r).stack = (Config.residue s.draws (machineData s)).stack := rfl
@[simp] theorem recordFault_heap (r : Fault) :
    (recordFault s r).heap = Memory.ofCells s.cfg.heapCap (Config.residue s.draws (machineData s)).heap := rfl
@[simp] theorem recordFault_flagEq (r : Fault) :
    (recordFault s r).flagEq = (Config.residue s.draws (machineData s)).flagEq := rfl
@[simp] theorem recordFault_flagGt (r : Fault) :
    (recordFault s r).flagGt = (Config.residue s.draws (machineData s)).flagGt := rfl
@[simp] theorem recordFault_ip (r : Fault) :
    (recordFault s r).ip = zext s.cfg.ipWidth (Config.residue s.draws (machineData s)).ip := rfl
@[simp] theorem recordFault_running (r : Fault) :
    (recordFault s r).running = (Config.residue s.draws (machineData s)).running := rfl
@[simp] theorem recordFault_fi (r : Fault) : (recordFault s r).fi = s.fi := rfl
@[simp] theorem recordFault_status (r : Fault) : (recordFault s r).status = .faulted := rfl
@[simp] theorem recordFault_fault (r : Fault) : (recordFault s r).fault = some r := rfl
@[simp] theorem recordFault_obs (r : Fault) : (recordFault s r).obs = s.obs := rfl
@[simp] theorem recordFault_draws (r : Fault) : (recordFault s r).draws = s.draws + 1 := rfl

/-! ### freshState -/

variable (cfg : Config) (prog : List Byte) (code : List Instr)

@[simp] theorem freshState_cfg : (freshState cfg prog code).cfg = cfg := rfl
@[simp] theorem freshState_prog : (freshState cfg prog code).prog = prog := rfl
@[simp] theorem freshState_code : (freshState cfg prog code).code = code := rfl
@[simp] theorem freshState_regs : (freshState cfg prog code).regs = Vector.replicate 8 (.u8 0) := rfl
@[simp] theorem freshState_stack : (freshState cfg prog code).stack = [] := rfl
@[simp] theorem freshState_heap : (freshState cfg prog code).heap = [] := rfl
@[simp] theorem freshState_flagEq : (freshState cfg prog code).flagEq = false := rfl
@[simp] theorem freshState_flagGt : (freshState cfg prog code).flagGt = false := rfl
@[simp] theorem freshState_ip : (freshState cfg prog code).ip = 0 := rfl
@[simp] theorem freshState_running : (freshState cfg prog code).running = true := rfl
@[simp] theorem freshState_fi : (freshState cfg prog code).fi = 0 := rfl
@[simp] theorem freshState_status : (freshState cfg prog code).status = .constructed := rfl
@[simp] theorem freshState_fault : (freshState cfg prog code).fault = none := rfl
@[simp] theorem freshState_obs : (freshState cfg prog code).obs = [] := rfl
@[simp] theorem freshState_draws : (freshState cfg prog code).draws = 0 := rfl

end Sys2Proof.Machine
end

