-- ==== Sys2Proof/Laws/Ops.lean ====
section
/-! SUPPORT. What each primitive can do, said once: its answer when the check holds, its fault when it
does not, and what follows when it answers. -/

namespace Sys2Proof.Machine

@[simp] theorem bind_ok {α β : Type} (x : α) (f : α → Except Cause β) :
    (Except.ok x : Except Cause α).bind f = f x := rfl

@[simp] theorem bind_error {α β : Type} (e : Cause) (f : α → Except Cause β) :
    (Except.error e : Except Cause α).bind f = .error e := rfl

/-- A computation in two parts answers when both do. -/
theorem bind_eq_ok {α β : Type} {x : Except Cause α} {f : α → Except Cause β} {b : β} :
    x.bind f = .ok b ↔ ∃ a, x = .ok a ∧ f a = .ok b := by
  cases x with
  | ok a => simp
  | error e => simp

/-- A computation in two parts faults when the first does, or the second after it. -/
theorem bind_eq_error {α β : Type} {x : Except Cause α} {f : α → Except Cause β} {e : Cause} :
    x.bind f = .error e ↔ x = .error e ∨ ∃ a, x = .ok a ∧ f a = .error e := by
  cases x with
  | ok a => simp
  | error e' => simp

@[simp] theorem conclude_ok (ins : Instr) (s t : State) : conclude ins s (.ok t) = .next t := rfl

@[simp] theorem conclude_error (ins : Instr) (s : State) (c : Cause) :
    conclude ins s (.error c) = .fault (.execution c s.fi ins) := rfl

/-- An instruction answers a next state exactly when its computation does. -/
theorem conclude_eq_next {ins : Instr} {s t : State} {r : Except Cause State} :
    conclude ins s r = .next t ↔ r = .ok t := by
  cases r <;> simp

/-- An instruction answers a fault exactly when its computation raises one. -/
theorem conclude_eq_fault {ins : Instr} {s : State} {r : Except Cause State} {f : Fault} :
    conclude ins s r = .fault f ↔ ∃ c, r = .error c ∧ f = .execution c s.fi ins := by
  cases r <;> simp [eq_comm]

/-- No meaning answers a refusal. -/
theorem conclude_ne_refused (ins : Instr) (s : State) (r : Except Cause State) (why : Refusal) :
    conclude ins s r ≠ .refused why := by
  cases r <;> simp

theorem readReg_of_lt {s : State} {i : Byte} (h : i.toNat < 8) : readReg s i = .ok s.regs[i.toNat] := by
  simp [readReg, h]

theorem readReg_of_ge {s : State} {i : Byte} (h : 8 ≤ i.toNat) : readReg s i = .error (.regIndex i) := by
  simp [readReg, Nat.not_lt.mpr h]

theorem readReg_eq_ok {s : State} {i : Byte} {v : Imm} :
    readReg s i = .ok v ↔ ∃ h : i.toNat < 8, s.regs[i.toNat] = v := by
  unfold readReg; split <;> simp_all

theorem readReg_eq_error {s : State} {i : Byte} {c : Cause} :
    readReg s i = .error c ↔ 8 ≤ i.toNat ∧ c = .regIndex i := by
  unfold readReg; split <;> simp_all
  exact eq_comm

theorem writeReg_of_lt {s : State} {i : Byte} (h : i.toNat < 8) (v : Imm) :
    writeReg s i v = .ok { s with regs := s.regs.set i.toNat v h } := by
  simp [writeReg, h]

theorem writeReg_of_ge {s : State} {i : Byte} (h : 8 ≤ i.toNat) (v : Imm) :
    writeReg s i v = .error (.regIndex i) := by
  simp [writeReg, Nat.not_lt.mpr h]

theorem writeReg_eq_ok {s t : State} {i : Byte} {v : Imm} :
    writeReg s i v = .ok t ↔
      ∃ h : i.toNat < 8, t = { s with regs := s.regs.set i.toNat v h } := by
  unfold writeReg; split <;> simp_all
  exact eq_comm

theorem writeReg_eq_error {s : State} {i : Byte} {v : Imm} {c : Cause} :
    writeReg s i v = .error c ↔ 8 ≤ i.toNat ∧ c = .regIndex i := by
  unfold writeReg; split <;> simp_all
  exact eq_comm

theorem heapRead_of_lt {s : State} {a : Byte} (h : a.toNat < s.cfg.heapCap) :
    heapRead s a = .ok (Memory.read s.heap a.toNat) := by
  simp [heapRead, h]

theorem heapRead_of_ge {s : State} {a : Byte} (h : s.cfg.heapCap ≤ a.toNat) :
    heapRead s a = .error (.heapAddr a) := by
  simp [heapRead, Nat.not_lt.mpr h]

theorem heapRead_eq_ok {s : State} {a : Byte} {v : Imm} :
    heapRead s a = .ok v ↔ a.toNat < s.cfg.heapCap ∧ Memory.read s.heap a.toNat = v := by
  unfold heapRead; split <;> simp_all

theorem heapRead_eq_error {s : State} {a : Byte} {c : Cause} :
    heapRead s a = .error c ↔ s.cfg.heapCap ≤ a.toNat ∧ c = .heapAddr a := by
  unfold heapRead; split <;> simp_all
  exact eq_comm

theorem heapWrite_of_lt {s : State} {a : Byte} (h : a.toNat < s.cfg.heapCap) (v : Imm) :
    heapWrite s a v = .ok { s with heap := Memory.write s.heap a.toNat v } := by
  simp [heapWrite, h]

theorem heapWrite_of_ge {s : State} {a : Byte} (h : s.cfg.heapCap ≤ a.toNat) (v : Imm) :
    heapWrite s a v = .error (.heapAddr a) := by
  simp [heapWrite, Nat.not_lt.mpr h]

theorem heapWrite_eq_ok {s t : State} {a : Byte} {v : Imm} :
    heapWrite s a v = .ok t ↔
      a.toNat < s.cfg.heapCap ∧ t = { s with heap := Memory.write s.heap a.toNat v } := by
  unfold heapWrite; split <;> simp_all
  exact eq_comm

theorem heapWrite_eq_error {s : State} {a : Byte} {v : Imm} {c : Cause} :
    heapWrite s a v = .error c ↔ s.cfg.heapCap ≤ a.toNat ∧ c = .heapAddr a := by
  unfold heapWrite; split <;> simp_all
  exact eq_comm

theorem push_of_room {s : State} (h : stackHasRoom s.cfg s.stack = true) (v : Imm) :
    push s v = .ok { s with stack := s.stack ++ [v] } := by
  simp [push, h]

theorem push_of_full {s : State} (h : stackHasRoom s.cfg s.stack = false) (v : Imm) :
    push s v = .error .stackOverflow := by
  simp [push, h]

theorem push_eq_ok {s t : State} {v : Imm} :
    push s v = .ok t ↔
      stackHasRoom s.cfg s.stack = true ∧ t = { s with stack := s.stack ++ [v] } := by
  unfold push; split <;> simp_all
  exact eq_comm

theorem push_eq_error {s : State} {v : Imm} {c : Cause} :
    push s v = .error c ↔ stackHasRoom s.cfg s.stack = false ∧ c = .stackOverflow := by
  unfold push; split <;> simp_all
  exact eq_comm

theorem pop_empty {s : State} (h : s.stack = []) : pop s = .error .stackEmpty := by
  simp [pop, h]

theorem pop_concat {s : State} {below : List Imm} {v : Imm} (h : s.stack = below ++ [v]) :
    pop s = .ok (v, { s with stack := below }) := by
  simp [pop, h]

theorem pop_eq_ok {s t : State} {v : Imm} :
    pop s = .ok (v, t) ↔ ∃ below, s.stack = below ++ [v] ∧ t = { s with stack := below } := by
  constructor
  · intro h
    rcases List.eq_nil_or_concat s.stack with hs | ⟨below, w, hs⟩
    · rw [pop_empty hs] at h; cases h
    · rw [List.concat_eq_append] at hs
      rw [pop_concat hs] at h
      cases h
      exact ⟨below, hs, rfl⟩
  · rintro ⟨below, hs, rfl⟩
    exact pop_concat hs

theorem pop_eq_error {s : State} {c : Cause} :
    pop s = .error c ↔ s.stack = [] ∧ c = .stackEmpty := by
  rcases List.eq_nil_or_concat s.stack with hs | ⟨below, w, hs⟩
  · simp [pop_empty hs, hs, eq_comm]
  · rw [List.concat_eq_append] at hs
    simp [pop_concat hs, hs]

end Sys2Proof.Machine
end

