-- ==== Sys2Proof/Laws/Alu.lean ====
section
/-! SUPPORT. What the ALU steps and the jump action can do, said once. -/

namespace Sys2Proof.Machine

/-- The ALU step on operands of one supported kind is the computation, then the push. -/
theorem aluStep_of_kinds {s : State} {kinds : Kind → Bool} {apply : Imm → Imm → Except Cause Imm}
    {v1 v2 : Imm} (hk : v1.kind = v2.kind) (hs : kinds v1.kind = true) :
    aluStep s kinds apply v1 v2 = (apply v1 v2).bind fun r => push s r := by
  simp only [aluStep, ne_eq, hk, not_true_eq_false, if_false]
  rw [← hk, hs]; rfl

/-- The ALU step on operands of different kinds or of an unsupported kind raises KindMismatch. -/
theorem aluStep_mismatch {s : State} {kinds : Kind → Bool} {apply : Imm → Imm → Except Cause Imm}
    {v1 v2 : Imm} (h : v1.kind ≠ v2.kind ∨ kinds v1.kind = false) :
    aluStep s kinds apply v1 v2 = .error (.kindMismatch v1 v2) := by
  unfold aluStep
  split
  · rfl
  · rw [if_pos (h.resolve_left ‹_›)]

theorem aluStep_eq_ok {s t : State} {kinds : Kind → Bool} {apply : Imm → Imm → Except Cause Imm}
    {v1 v2 : Imm} (h : aluStep s kinds apply v1 v2 = .ok t) :
    v1.kind = v2.kind ∧ kinds v1.kind = true ∧ ∃ r, apply v1 v2 = .ok r ∧ push s r = .ok t := by
  unfold aluStep at h
  split at h
  · cases h
  · split at h
    · cases h
    · exact ⟨not_not.mp ‹_›, by simpa using ‹¬kinds v1.kind = false›, bind_eq_ok.mp h⟩

theorem aluRR_of_lt {s : State} {kinds : Kind → Bool} {apply : Imm → Imm → Except Cause Imm}
    {r1 r2 : Byte} (h1 : r1.toNat < 8) (h2 : r2.toNat < 8) :
    aluRR s kinds apply r1 r2 = aluStep s kinds apply s.regs[r1.toNat] s.regs[r2.toNat] := by
  simp [aluRR, readReg_of_lt h1, readReg_of_lt h2]

theorem aluRI_of_lt {s : State} {kinds : Kind → Bool} {apply : Imm → Imm → Except Cause Imm}
    {r : Byte} {imm : Imm} (h : r.toNat < 8) :
    aluRI s kinds apply r imm = aluStep s kinds apply s.regs[r.toNat] imm := by
  simp [aluRI, readReg_of_lt h]

/-- If the two-register ALU step answers, it pushed one value and left everything else. -/
theorem aluRR_eq_ok {s t : State} {kinds : Kind → Bool} {apply : Imm → Imm → Except Cause Imm}
    {r1 r2 : Byte} (h : aluRR s kinds apply r1 r2 = .ok t) :
    ∃ v, stackHasRoom s.cfg s.stack = true ∧ t = { s with stack := s.stack ++ [v] } := by
  obtain ⟨v1, -, h⟩ := bind_eq_ok.mp h
  obtain ⟨v2, -, h⟩ := bind_eq_ok.mp h
  obtain ⟨-, -, r, -, h⟩ := aluStep_eq_ok h
  exact ⟨r, push_eq_ok.mp h⟩

/-- The same for the register-immediate step. -/
theorem aluRI_eq_ok {s t : State} {kinds : Kind → Bool} {apply : Imm → Imm → Except Cause Imm}
    {r : Byte} {imm : Imm} (h : aluRI s kinds apply r imm = .ok t) :
    ∃ v, stackHasRoom s.cfg s.stack = true ∧ t = { s with stack := s.stack ++ [v] } := by
  obtain ⟨v1, -, h⟩ := bind_eq_ok.mp h
  obtain ⟨-, -, r, -, h⟩ := aluStep_eq_ok h
  exact ⟨r, push_eq_ok.mp h⟩

/-- The causes an ALU step may raise. -/
theorem aluStep_eq_error {s : State} {kinds : Kind → Bool}
    {apply : Imm → Imm → Except Cause Imm} {v1 v2 : Imm} {c : Cause}
    (h : aluStep s kinds apply v1 v2 = .error c) :
    c = .kindMismatch v1 v2 ∨ (∃ w1 w2, apply w1 w2 = .error c) ∨
      (stackHasRoom s.cfg s.stack = false ∧ c = .stackOverflow) := by
  unfold aluStep at h
  split at h
  · cases h; exact .inl rfl
  · split at h
    · cases h; exact .inl rfl
    · rcases bind_eq_error.mp h with h | ⟨r, -, h⟩
      · exact .inr (.inl ⟨v1, v2, h⟩)
      · exact .inr (.inr (push_eq_error.mp h))

theorem intResult_eq_error {mode : OverflowMode} {k : Kind} {e : Int} {c : Cause}
    (h : intResult mode k e = .error c) : mode = .fault ∧ c = .intOverflow := by
  unfold intResult at h
  split at h
  · cases h
  · cases mode <;> simp_all [eq_comm]

theorem intResult_of_range {mode : OverflowMode} {k : Kind} {e : Int}
    (h : k.minVal ≤ e ∧ e ≤ k.maxVal) : intResult mode k e = .ok (k.ofInt e) := by
  simp [intResult, h]

@[simp] theorem intResult_wrap (k : Kind) (e : Int) : intResult .wrap k e = .ok (k.ofInt e) := by
  simp [intResult]

/-- Bitwise operators always answer. -/
@[simp] theorem applyBitwise_eq (op : Nat → Nat → Nat) (v1 v2 : Imm) :
    applyBitwise op v1 v2 = .ok (v1.kind.ofPat (op v1.pat v2.pat)) := rfl

theorem jumpTo_eq_ok {s t : State} {v : Imm} :
    jumpTo s v = .ok t ↔ ∃ x, jumpTarget s.cfg v = some x ∧ t = setIp s x := by
  unfold jumpTo
  cases jumpTarget s.cfg v <;> simp [eq_comm]

theorem jumpTo_eq_error {s : State} {v : Imm} {c : Cause} :
    jumpTo s v = .error c ↔ jumpTarget s.cfg v = none ∧ c = .badJumpKind v := by
  unfold jumpTo
  cases jumpTarget s.cfg v <;> simp [eq_comm]

/-- If a jump on a register answers, it wrote `ip` and nothing else. -/
theorem jumpReg_eq_ok {s t : State} {reg : Byte} :
    jumpReg s reg = .ok t ↔
      ∃ h : reg.toNat < 8, ∃ x, jumpTarget s.cfg s.regs[reg.toNat] = some x ∧ t = setIp s x := by
  simp only [jumpReg, bind_eq_ok, readReg_eq_ok, jumpTo_eq_ok]
  constructor
  · rintro ⟨v, ⟨h, rfl⟩, x, hx, rfl⟩; exact ⟨h, x, hx, rfl⟩
  · rintro ⟨h, x, hx, rfl⟩; exact ⟨_, ⟨h, rfl⟩, x, hx, rfl⟩

theorem jumpReg_eq_error {s : State} {reg : Byte} {c : Cause} :
    jumpReg s reg = .error c ↔
      (8 ≤ reg.toNat ∧ c = .regIndex reg) ∨
        ∃ h : reg.toNat < 8, jumpTarget s.cfg s.regs[reg.toNat] = none ∧
          c = .badJumpKind s.regs[reg.toNat] := by
  simp only [jumpReg, bind_eq_error, readReg_eq_ok, readReg_eq_error, jumpTo_eq_error]
  constructor
  · rintro (h | ⟨v, ⟨h, rfl⟩, hn, rfl⟩)
    · exact .inl h
    · exact .inr ⟨h, hn, rfl⟩
  · rintro (h | ⟨h, hn, rfl⟩)
    · exact .inl h
    · exact .inr ⟨_, ⟨h, rfl⟩, hn, rfl⟩

@[simp] theorem jumpIf_false (s : State) (reg : Byte) : jumpIf s false reg = .ok s := rfl

@[simp] theorem jumpIf_true (s : State) (reg : Byte) : jumpIf s true reg = jumpReg s reg := rfl

/-- A jump target is at most 65535 and fits the register (10_state.md R29). -/
theorem jumpTarget_bounds {cfg : Config} {v : Imm} {x : Nat} (h : jumpTarget cfg v = some x) :
    x ≤ 65535 ∧ x < 2 ^ cfg.ipWidth := by
  cases v <;> simp only [jumpTarget, Option.some.injEq, reduceCtorEq] at h <;> subst h
  all_goals
    rename_i w
    exact ⟨(Nat.mod_le _ _).trans (by have := w.isLt; omega), Nat.mod_lt _ (Nat.two_pow_pos _)⟩

/-- In a register of 16 bits or more a jump target is the scalar itself (10_state.md R29). -/
theorem zext_of_le {width value : Nat} (hw : 16 ≤ width) (hv : value ≤ 65535) :
    zext width value = value :=
  Nat.mod_eq_of_lt (hv.trans_lt (Nat.lt_of_lt_of_le (by decide : 65535 < 2 ^ 16)
    (Nat.pow_le_pow_right (by decide) hw)))

/-- The two float kinds compute by FLOAT_OPS and never fault (44_arithmetic.md R165). -/
@[simp] theorem applyArith_f32 (cfg : Config) (op : ArithOp) (a b : BitVec 32) :
    applyArith cfg op (.f32 a) (.f32 b) = .ok (.f32 (float32 cfg.floatOps op a b)) := by
  simp [applyArith, Imm.kind, Imm.pat]

@[simp] theorem applyArith_f64 (cfg : Config) (op : ArithOp) (a b : BitVec 64) :
    applyArith cfg op (.f64 a) (.f64 b) = .ok (.f64 (float64 cfg.floatOps op a b)) := by
  simp [applyArith, Imm.kind, Imm.pat]

/-- The IEEE 754 record gives the result of the operation where that is a pattern (R165). -/
theorem float32_of_some {n p : Nat} {op : ArithOp} {a b : BitVec 32}
    (h : floatOp binary32 op a.toNat b.toNat = some p) :
    float32 (.ieee n) op a b = BitVec.ofNat 32 p := by
  simp [float32, h]

theorem float64_of_some {n p : Nat} {op : ArithOp} {a b : BitVec 64}
    (h : floatOp binary64 op a.toNat b.toNat = some p) :
    float64 (.ieee n) op a b = BitVec.ofNat 64 p := by
  simp [float64, h]

/-- Whatever the choice, its pattern is a NaN of the format (R170). -/
theorem isNaN_nanPattern32 (d : Bool × Fin 8388607) : isNaN binary32 (nanPattern32 d).toNat = true := by
  obtain ⟨sign, k, hk⟩ := d
  cases sign <;>
    simp [nanPattern32, withSign, isNaN, floatMag, infPattern, signWeight, binary32] <;> omega

theorem isNaN_nanPattern64 (d : Bool × Fin 4503599627370495) :
    isNaN binary64 (nanPattern64 d).toNat = true := by
  obtain ⟨sign, k, hk⟩ := d
  cases sign <;>
    simp [nanPattern64, withSign, isNaN, floatMag, infPattern, signWeight, binary64] <;> omega

/-- The IEEE 754 record gives some NaN of the format where the result is a NaN (R170). -/
theorem float32_of_none {n : Nat} {op : ArithOp} {a b : BitVec 32}
    (h : floatOp binary32 op a.toNat b.toNat = none) :
    isNaN binary32 (float32 (.ieee n) op a b).toNat = true := by
  simp [float32, h, isNaN_nanPattern32]

theorem float64_of_none {n : Nat} {op : ArithOp} {a b : BitVec 64}
    (h : floatOp binary64 op a.toNat b.toNat = none) :
    isNaN binary64 (float64 (.ieee n) op a b).toNat = true := by
  simp [float64, h, isNaN_nanPattern64]

/-- On an integer kind the four operators are the integer laws (44_arithmetic.md R162 to R164). -/
theorem applyArith_integer {cfg : Config} {op : ArithOp} {v1 v2 : Imm} (h : v1.kind.isInteger = true) :
    applyArith cfg op v1 v2 = intArith cfg.intOverflow op v1.kind v1.val v2.val := by
  unfold applyArith
  cases hk : v1.kind <;> simp_all [Kind.isInteger, Kind.isFloat]

end Sys2Proof.Machine
end

