-- ==== Sys2Proof/Laws/Decode.lean ====
section
/-! SUPPORT. Small laws of the decoder's parts and of the encoder: what each take does on bytes that are
there, and that the little-endian bytes of a number give the number back. -/

namespace Sys2Proof

@[simp] theorem andThen_done {α β : Type} (v : α) (f : α → DecodeResult β) :
    (DecodeResult.done v).andThen f = f v := rfl

@[simp] theorem andThen_truncated {α β : Type} (a b c : Nat) (f : α → DecodeResult β) :
    (DecodeResult.truncated a b c : DecodeResult α).andThen f = .truncated a b c := rfl

/-- A decoding in two parts answers when both do. -/
theorem andThen_eq_done {α β : Type} {r : DecodeResult α} {f : α → DecodeResult β} {b : β} :
    r.andThen f = .done b ↔ ∃ a, r = .done a ∧ f a = .done b := by
  cases r <;> simp

@[simp] theorem takeByte_cons (start pos : Nat) (b : Byte) (bs : List Byte) :
    takeByte start ⟨pos, b :: bs⟩ = .done (b, ⟨pos + 1, bs⟩) := rfl

@[simp] theorem takeByte_nil (start pos : Nat) :
    takeByte start ⟨pos, []⟩ = .truncated start pos 1 := rfl

/-- Taking exactly the payload in front of the rest. -/
theorem takeBytes_append (start pos : Nat) (payload rest : List Byte) :
    takeBytes start payload.length ⟨pos, payload ++ rest⟩ =
      .done (payload, ⟨pos + payload.length, rest⟩) := by
  simp [takeBytes]

theorem leBytes_length (n v : Nat) : (leBytes n v).length = n := by
  induction n generalizing v with
  | zero => rfl
  | succ n ih => simp [leBytes, ih]

/-- Assembling the little-endian bytes gives the number modulo their range (R54, R76). -/
theorem leNat_leBytes (n v : Nat) : leNat (leBytes n v) = v % 256 ^ n := by
  induction n generalizing v with
  | zero => simp [leBytes, leNat, Nat.mod_one]
  | succ n ih =>
    simp only [leBytes, leNat, ih, BitVec.toNat_ofNat]
    rw [show 256 ^ (n + 1) = 256 * 256 ^ n from by rw [Nat.pow_succ, Nat.mul_comm], Nat.mod_mul]

/-- The bytes of an immediate: its tag, then as many payload bytes as its kind has (R75). -/
theorem encodeImm_eq (v : Imm) :
    encodeImm v = tagOfKind v.kind :: leBytes (payloadBytes v.kind) v.pat := by
  cases v <;> rfl

@[simp] theorem kindOfTag_tagOfKind (k : Kind) : kindOfTag (tagOfKind k) = k := by
  cases k <;> rfl

/-- A value is the one of its kind with its pattern. -/
theorem ofPat_pat (v : Imm) : v.kind.ofPat v.pat = v := by
  cases v <;> simp [Imm.kind, Imm.pat, Kind.ofPat]

/-- A pattern fits the payload of its kind. -/
theorem pat_lt (v : Imm) : v.pat < 256 ^ payloadBytes v.kind := by
  cases v with
  | none => decide
  | u8 w | i8 w | u16 w | i16 w | u32 w | i32 w | u64 w | i64 w | f32 w | f64 w =>
    exact w.isLt

/-- Decoding an encoded immediate gives it back and stops after it. -/
theorem takeImm_encodeImm (start pos : Nat) (v : Imm) (rest : List Byte) :
    takeImm start ⟨pos, encodeImm v ++ rest⟩ =
      .done (v, ⟨pos + (encodeImm v).length, rest⟩) := by
  have hlen : payloadBytes v.kind = (leBytes (payloadBytes v.kind) v.pat).length :=
    (leBytes_length _ _).symm
  have htake := takeBytes_append start (pos + 1) (leBytes (payloadBytes v.kind) v.pat) rest
  rw [← hlen] at htake
  rw [encodeImm_eq]
  simp only [takeImm, List.cons_append, takeByte_cons, andThen_done, kindOfTag_tagOfKind, htake,
    leNat_leBytes, Nat.mod_eq_of_lt (pat_lt v), ofPat_pat, List.length_cons, leBytes_length]
  congr 3
  omega

/-- An immediate takes 1 to 9 bytes (R75). -/
theorem encodeImm_length_le (v : Imm) : (encodeImm v).length ≤ 9 := by
  cases v <;> simp [encodeImm, leBytes_length]

end Sys2Proof
end

