-- ==== Sys2Proof/Laws/PerInstr.lean ====
section
/-! SUPPORT. The family Encoded, per instruction: an encoding is one known opcode byte and at most ten
operand bytes (30_encoding.md R70, R72, R80). -/

namespace Sys2Proof.Laws.Encoded

/-- The encoding is an opcode byte of the table, then at most ten bytes, 11 in all (R72). -/
def Statement (i : Instr) : Prop :=
  ∃ op operands, encode i = op :: operands ∧ op.toNat < 30 ∧ operands.length ≤ 10

theorem nop : Statement (.nop) :=
  ⟨_, _, rfl, by decide, by simp⟩

theorem mov (reg : Byte) (imm : Imm) : Statement (.mov reg imm) :=
  ⟨_, _, rfl, by decide, by
    have := encodeImm_length_le imm
    simp only [List.length_cons]
    omega⟩

theorem movr (dst : Byte) (src : Byte) : Statement (.movr dst src) :=
  ⟨_, _, rfl, by decide, by simp⟩

theorem jmp (reg : Byte) : Statement (.jmp reg) :=
  ⟨_, _, rfl, by decide, by simp⟩

theorem je (reg : Byte) : Statement (.je reg) :=
  ⟨_, _, rfl, by decide, by simp⟩

theorem jne (reg : Byte) : Statement (.jne reg) :=
  ⟨_, _, rfl, by decide, by simp⟩

theorem cmp (reg1 : Byte) (reg2 : Byte) : Statement (.cmp reg1 reg2) :=
  ⟨_, _, rfl, by decide, by simp⟩

theorem printr (reg : Byte) : Statement (.printr reg) :=
  ⟨_, _, rfl, by decide, by simp⟩

theorem printv (addr : Byte) : Statement (.printv addr) :=
  ⟨_, _, rfl, by decide, by simp⟩

theorem vstore (addr : Byte) (imm : Imm) : Statement (.vstore addr imm) :=
  ⟨_, _, rfl, by decide, by
    have := encodeImm_length_le imm
    simp only [List.length_cons]
    omega⟩

theorem vload (addr : Byte) : Statement (.vload addr) :=
  ⟨_, _, rfl, by decide, by simp⟩

theorem add (reg1 : Byte) (reg2 : Byte) : Statement (.add reg1 reg2) :=
  ⟨_, _, rfl, by decide, by simp⟩

theorem sub (reg1 : Byte) (reg2 : Byte) : Statement (.sub reg1 reg2) :=
  ⟨_, _, rfl, by decide, by simp⟩

theorem mul (reg1 : Byte) (reg2 : Byte) : Statement (.mul reg1 reg2) :=
  ⟨_, _, rfl, by decide, by simp⟩

theorem div (reg1 : Byte) (reg2 : Byte) : Statement (.div reg1 reg2) :=
  ⟨_, _, rfl, by decide, by simp⟩

theorem vstorer (addr : Byte) (reg : Byte) : Statement (.vstorer addr reg) :=
  ⟨_, _, rfl, by decide, by simp⟩

theorem vloadr (reg : Byte) (addr : Byte) : Statement (.vloadr reg addr) :=
  ⟨_, _, rfl, by decide, by simp⟩

theorem vpush (imm : Imm) : Statement (.vpush imm) :=
  ⟨_, _, rfl, by decide, by
    have := encodeImm_length_le imm
    omega⟩

theorem vpushr (reg : Byte) : Statement (.vpushr reg) :=
  ⟨_, _, rfl, by decide, by simp⟩

theorem vpop (reg : Byte) : Statement (.vpop reg) :=
  ⟨_, _, rfl, by decide, by simp⟩

theorem call (reg : Byte) : Statement (.call reg) :=
  ⟨_, _, rfl, by decide, by simp⟩

theorem ret : Statement (.ret) :=
  ⟨_, _, rfl, by decide, by simp⟩

theorem halt : Statement (.halt) :=
  ⟨_, _, rfl, by decide, by simp⟩

theorem jg (reg : Byte) : Statement (.jg reg) :=
  ⟨_, _, rfl, by decide, by simp⟩

theorem jl (reg : Byte) : Statement (.jl reg) :=
  ⟨_, _, rfl, by decide, by simp⟩

theorem and (reg1 : Byte) (reg2 : Byte) : Statement (.and reg1 reg2) :=
  ⟨_, _, rfl, by decide, by simp⟩

theorem or (reg1 : Byte) (reg2 : Byte) : Statement (.or reg1 reg2) :=
  ⟨_, _, rfl, by decide, by simp⟩

theorem xor (reg1 : Byte) (reg2 : Byte) : Statement (.xor reg1 reg2) :=
  ⟨_, _, rfl, by decide, by simp⟩

theorem shr (reg : Byte) (imm : Imm) : Statement (.shr reg imm) :=
  ⟨_, _, rfl, by decide, by
    have := encodeImm_length_le imm
    simp only [List.length_cons]
    omega⟩

theorem shl (reg : Byte) (imm : Imm) : Statement (.shl reg imm) :=
  ⟨_, _, rfl, by decide, by
    have := encodeImm_length_le imm
    simp only [List.length_cons]
    omega⟩

end Sys2Proof.Laws.Encoded
end

