-- ==== Sys2Proof/Laws/Step.lean ====
section
/-! SUPPORT. What a step can do, said once: the answers of the run loop, and the inversion of a step that
answers a next state. -/

namespace Sys2Proof.Machine

/-- Every arm ends by `conclude`: a next state, or a fault with the record of 60_exceptions.md R203. -/
theorem exec_eq_conclude (i : Instr) (s : State) : ∃ r, exec i s = conclude i s r := by
  cases i with
  | nop => exact ⟨.ok s, rfl⟩
  | halt => exact ⟨.ok (setRunning s false), rfl⟩
  | _ => exact ⟨_, rfl⟩

/-- A RUNNING machine whose fetched instruction completes advances. -/
theorem step_of_next {s t : State} {i : Instr} (hs : s.status = .running) (hi : fetch s = some i)
    (h : exec i s = .next t) : step s = .next (advance t) := by
  simp [step, hs, hi, h, afterInstr]

/-- A RUNNING machine whose fetched instruction faults records the fault. -/
theorem step_of_fault {s : State} {i : Instr} {f : Fault} (hs : s.status = .running)
    (hi : fetch s = some i) (h : exec i s = .fault f) : step s = .next (recordFault s f) := by
  simp [step, hs, hi, h, afterInstr]

/-- The `run` event. -/
theorem step_of_constructed {s : State} (hs : s.status = .constructed) :
    step s = .next (startRun s) := by
  simp [step, hs]

/-- A machine whose run is over has no next state. -/
theorem whenOver_ne_next (s t : State) : whenOver s ≠ .next t := by
  unfold whenOver
  split <;> simp

/-- A step that answers a next state is the `run` event, an instruction that completed, an instruction
that faulted, or the end of a run with no instruction left. -/
theorem step_eq_next {s t : State} (h : step s = .next t) :
    (s.status = .constructed ∧ t = startRun s) ∨
      (s.status = .running ∧ fetch s = none ∧ t = startRun s) ∨
      (s.status = .running ∧ ∃ i u, fetch s = some i ∧ exec i s = .next u ∧ t = advance u) ∨
      (s.status = .running ∧ ∃ i f, fetch s = some i ∧ exec i s = .fault f ∧ t = recordFault s f) := by
  cases hs : s.status with
  | constructed =>
    rw [step_of_constructed hs] at h
    cases h
    exact .inl ⟨rfl, rfl⟩
  | running =>
    cases hf : fetch s with
    | none =>
      simp only [step, hs, hf] at h
      cases h
      exact .inr (.inl ⟨rfl, rfl, rfl⟩)
    | some i =>
      cases he : exec i s with
      | next u =>
        rw [step_of_next hs hf he] at h
        cases h
        exact .inr (.inr (.inl ⟨rfl, i, u, rfl, he, rfl⟩))
      | fault f =>
        rw [step_of_fault hs hf he] at h
        cases h
        exact .inr (.inr (.inr ⟨rfl, i, f, rfl, he, rfl⟩))
      | refused why => simp [step, hs, hf, he, afterInstr] at h
  | done =>
    simp only [step, hs] at h
    exact absurd h (whenOver_ne_next s t)
  | faulted =>
    simp only [step, hs] at h
    exact absurd h (whenOver_ne_next s t)

end Sys2Proof.Machine
end

