-- ==== Sys2Proof/Tests/Slice0.lean ====
section
/-! SUPPORT. Tests: the WellFormed smoke test, decoding of words written out from spec/30_encoding.md and
95_test_vectors.md, and single steps with the results of 95_test_vectors.md (its vector ids stand in the
comments). No expected value comes from the model. -/

namespace Sys2Proof.Tests

open Sys2Proof.Machine

/-! ### WellFormed: one ill-formed term for each check -/

/-- Register 8 does not exist (10_state.md R25). -/
theorem test_wellFormed_refuses_reg8 : (Instr.movr 0 8).wellFormed 16 = false := by decide

/-- Address 16 does not exist with HEAP_CAP 16 (20_memory.md R53). -/
theorem test_wellFormed_refuses_addr16 : (Instr.vstorer 16 0).wellFormed 16 = false := by decide

theorem test_wellFormed_accepts : (Instr.vstorer 15 7).wellFormed 16 = true := by decide

theorem test_program_ill_formed : programWellFormed 16 [.nop, .vpop 9] = false := by decide

/-! ### Decoding: every constructor by a word written out from the spec -/

/-- S1: the source's own buffer. -/
theorem test_decode_S1 :
    decode [1, 1, 3, 100, 0, 1, 2, 3, 0xFE, 0xFF, 6, 0, 1, 2, 2, 7, 0, 22] =
      .done [.mov 1 (.i16 100), .mov 2 (.i16 (-2)), .cmp 0 1, .movr 2 7, .nop, .halt] := by decide

/-- D16, D19, D20, D25. -/
theorem test_decode_heap :
    decode [0x09, 0x05, 0x01, 0xFF, 0x0F, 0x03, 0x02, 0x10, 0x04, 0x03, 0x1C, 0x00, 0x0A] =
      .done [.vstore 5 (.i8 (-1)), .vstorer 3 2, .vloadr 4 3, .shr 0 .none] := by decide

/-- D21. -/
theorem test_decode_control :
    decode [0x03, 0, 0x04, 1, 0x05, 2, 0x17, 3, 0x18, 4, 0x14, 5, 0x15, 0x16] =
      .done [.jmp 0, .je 1, .jne 2, .jg 3, .jl 4, .call 5, .ret, .halt] := by decide

/-- D22. -/
theorem test_decode_observe_and_stack :
    decode [0x07, 1, 0x08, 2, 0x0A, 3, 0x12, 4, 0x13, 5] =
      .done [.printr 1, .printv 2, .vload 3, .vpushr 4, .vpop 5] := by decide

/-- D23. -/
theorem test_decode_alu :
    decode [0x0B, 0, 1, 0x0C, 2, 3, 0x0D, 4, 5, 0x0E, 6, 7, 0x19, 0, 1, 0x1A, 2, 3, 0x1B, 4, 5] =
      .done [.add 0 1, .sub 2 3, .mul 4 5, .div 6 7, .and 0 1, .or 2 3, .xor 4 5] := by decide

/-- D17, D18. -/
theorem test_decode_shifts :
    decode [0x1C, 0x00, 0x00, 0x03, 0x1D, 0x01, 0x02, 0x04, 0x00] =
      .done [.shr 0 (.u8 3), .shl 1 (.u16 4)] := by decide

/-- D4 to D9. -/
theorem test_decode_tags_0_to_5 :
    decode [0x11, 0, 0x2A, 0x11, 1, 0x80, 0x11, 2, 0x34, 0x12, 0x11, 3, 0xFE, 0xFF,
        0x11, 4, 0x78, 0x56, 0x34, 0x12, 0x11, 5, 0xFF, 0xFF, 0xFF, 0xFF] =
      .done [.vpush (.u8 42), .vpush (.i8 (-128)), .vpush (.u16 4660), .vpush (.i16 (-2)),
        .vpush (.u32 305419896), .vpush (.i32 (-1))] := by decide

/-- D10 to D14. -/
theorem test_decode_tags_6_and_up :
    decode [0x11, 6, 1, 0, 0, 0, 0, 0, 0, 0x80, 0x11, 7, 0, 0, 0, 0, 0, 0, 0, 0x80,
        0x11, 8, 0, 0, 0x80, 0x3F, 0x11, 9, 0, 0, 0, 0, 0, 0, 0xF0, 0x3F, 0x11, 0x0A, 0x11, 0xFF, 0] =
      .done [.vpush (.u64 9223372036854775809), .vpush (.i64 (-9223372036854775808)),
        .vpush (.f32 0x3F800000), .vpush (.f64 0x3FF0000000000000), .vpush .none, .vpush .none,
        .nop] := by decide

/-- D3: 30 is the first unknown opcode byte. -/
theorem test_decode_unknown : decode [0x1E, 0xFF, 0x63] = .done [.nop, .nop, .nop] := by decide

/-- D1, D24: the empty buffer and the longest instruction. -/
theorem test_decode_longest :
    decode [0x01, 0x00, 0x06, 0xFF, 0xFF, 0xFF, 0xFF, 0xFF, 0xFF, 0xFF, 0xFF] =
      .done [.mov 0 (.u64 18446744073709551615)] ∧ decode [] = .done [] := by decide

/-- T1, T2, T3, T5, T8. -/
theorem test_decode_truncated :
    decode [0x01] = .truncated 0 1 1 ∧ decode [0x01, 0x00] = .truncated 0 2 1 ∧
      decode [0x01, 0x00, 0x02, 0x05] = .truncated 0 3 2 ∧ decode [0x06, 0x00] = .truncated 0 2 1 ∧
      decode [0x11, 6, 1, 2, 3, 4, 5, 6, 7] = .truncated 0 2 8 := by decide

/-- T9, T10: nothing of the buffer is decoded. -/
theorem test_decode_truncated_later :
    decode [0x11, 0x0A, 0x05] = .truncated 2 3 1 ∧
      decode [0x07, 0x00, 0x01, 0x00, 0x04, 0x01, 0x02] = .truncated 2 5 4 := by decide

/-- R101: MOV r1, I16(100) is 01 01 03 64 00. -/
theorem test_encode : encode (.mov 1 (.i16 100)) = [0x01, 0x01, 0x03, 0x64, 0x00] := by decide

/-- The word of MOV r1, U8(7): bytes 01 01 00 07, the first the least significant. -/
theorem test_decodeTableWord :
    decodeTableWord 32 0x07000101 = some (.mov 1 (.u8 7)) ∧ decodeTableWord 8 0x15 = some .ret := by
  decide

/-! ### Single instructions -/

/-- The machine of 95_test_vectors.md's "reset state", RUNNING. -/
def base : State := { State.reset with status := .running }

/-- `x[0] = v1`, `x[1] = v2`. -/
def regs2 (v1 v2 : Imm) : State := { base with regs := #v[v1, v2, .u8 0, .u8 0, .u8 0, .u8 0, .u8 0, .u8 0] }

/-- The Fault mode of INT_OVERFLOW. -/
def faulting (s : State) : State := { s with cfg := { s.cfg with intOverflow := .fault } }

/-- What a test looks at in the next state. -/
def after {α : Type} (r : Result) (f : State → α) : Option α :=
  match r with
  | .next t => some (f t)
  | .fault _ => none
  | .refused _ => none

/-- The stack of the next state. -/
def stackAfter (r : Result) : Option (List Imm) := after r State.stack

/-- The cause of an execution fault. -/
def causeOf (r : Result) : Option Cause :=
  match r with
  | .fault (.execution c _ _) => some c
  | .fault (.decodeTruncated _ _ _) => none
  | .next _ => none
  | .refused _ => none

/-- M1. -/
theorem test_nop : after (exec .nop base) (fun t => decide (t = base)) = some true := by decide

/-- M2, M5. -/
theorem test_mov :
    after (exec (.mov 0 (.u8 255)) base) (fun t => t.regs[0]) = some (.u8 255) ∧
      causeOf (exec (.mov 8 (.u8 1)) base) = some (.regIndex 8) := by decide

/-- M6, M8, M9: source first. -/
theorem test_movr :
    after (exec (.movr 1 0) (regs2 (.i8 (-5)) .none)) (fun t => t.regs[1]) = some (.i8 (-5)) ∧
      causeOf (exec (.movr 9 8) base) = some (.regIndex 8) ∧
      causeOf (exec (.movr 9 0) base) = some (.regIndex 9) := by decide

/-- The flags a CMP of two values leaves. -/
def flagsOf (v1 v2 : Imm) : Option (Bool × Bool) :=
  after (exec (.cmp 0 1) (regs2 v1 v2)) fun t => (t.flagEq, t.flagGt)

/-- C1, C4, C5, C6, C9, C10, C15. -/
theorem test_cmp_integers :
    flagsOf (.u8 5) (.u8 5) = some (true, false) ∧ flagsOf (.i8 (-1)) (.i8 1) = some (false, false) ∧
      flagsOf (.i8 1) (.i8 (-1)) = some (false, true) ∧
      flagsOf (.u8 0) (.i16 100) = some (false, false) ∧
      flagsOf (.i8 (-1)) (.u8 255) = some (false, true) ∧
      flagsOf (.u8 0) (.i16 0) = some (false, false) ∧
      flagsOf (.u8 0) .none = some (false, true) ∧ flagsOf .none .none = some (true, false) := by
  decide

/-- C16 to C20. -/
theorem test_cmp_floats :
    flagsOf (.f32 0x7FC00000) (.f32 0x7FC00000) = some (false, false) ∧
      flagsOf (.f32 0) (.f32 0x80000000) = some (true, false) ∧
      flagsOf (.f64 0x4004000000000000) (.f64 0x3FF0000000000000) = some (false, true) ∧
      flagsOf (.f32 0xFF800000) (.f32 0x7F800000) = some (false, false) ∧
      flagsOf (.f32 0x7FC00000) (.u8 0) = some (false, true) := by decide

/-- J1, J2, J4. -/
theorem test_jmp :
    after (exec (.jmp 0) (regs2 (.u8 200) .none)) State.ip = some 200 ∧
      after (exec (.jmp 0) (regs2 (.u16 65535) .none)) State.ip = some 65535 ∧
      causeOf (exec (.jmp 0) (regs2 (.u32 5) .none)) = some (.badJumpKind (.u32 5)) := by decide

/-- J8: with flag_eq true, JE is taken and faults. -/
theorem test_je :
    causeOf (exec (.je 0) { regs2 (.i16 3) .none with flagEq := true }) =
        some (.badJumpKind (.i16 3)) ∧
      after (exec (.je 9) base) State.ip = some 0 := by decide

/-- R127: taken in the reset state; J8: not taken with flag_eq true, no fault. -/
theorem test_jne :
    after (exec (.jne 0) (regs2 (.u8 7) .none)) State.ip = some 7 ∧
      after (exec (.jne 0) { regs2 (.i16 3) .none with flagEq := true }) State.ip = some 0 := by decide

/-- R128. -/
theorem test_jg :
    after (exec (.jg 1) { regs2 .none (.u8 2) with flagGt := true }) State.ip = some 2 ∧
      after (exec (.jg 9) base) State.ip = some 0 := by decide

/-- J8 and R129: JL is not taken when equal, taken in the reset state. -/
theorem test_jl :
    after (exec (.jl 9) { base with flagEq := true }) State.ip = some 0 ∧
      after (exec (.jl 0) (regs2 (.u8 9) .none)) State.ip = some 9 ∧
      causeOf (exec (.jl 9) base) = some (.regIndex 9) := by decide

/-- J9, J14. -/
theorem test_call :
    after (exec (.call 1) { regs2 .none (.u8 3) with ip := 65535 }) (fun t => (t.stack, t.ip)) =
        some ([.u16 0], 3) ∧
      causeOf (exec (.call 0) (regs2 (.i16 1) .none)) = some (.badJumpKind (.i16 1)) := by decide

/-- J11, J12, J13. -/
theorem test_ret :
    after (exec .ret { base with stack := [.u8 7] }) (fun t => (t.stack, t.ip)) = some ([], 7) ∧
      causeOf (exec .ret { base with stack := [.u16 300, .i16 5] }) = some (.badReturnKind (.i16 5)) ∧
      causeOf (exec .ret base) = some .stackEmpty := by decide

/-- The reset machine with the given HEAP_CAP. -/
def withCap (n : Nat) : State := { base with cfg := { base.cfg with heapCap := n } }

/-- H2, H3. -/
theorem test_vstore :
    after (exec (.vstore 3 (.u8 2)) (withCap 4)) (fun t => t.heap) = some [(3, .u8 2)] ∧
      causeOf (exec (.vstore 4 (.u8 3)) (withCap 4)) = some (.heapAddr 4) := by decide

/-- Storing U8(0), what an unwritten cell holds, leaves equal heaps equal data. -/
theorem test_vstore_blank :
    after (exec (.vstore 3 (.u8 0)) { withCap 4 with heap := [(1, .none), (3, .u8 2)] })
      (fun t => t.heap) = some [(1, .none)] := by decide

/-- H4, H10. -/
theorem test_vload :
    stackAfter (exec (.vload 3) (withCap 4)) = some [.u8 0] ∧
      causeOf (exec (.vload 0) (withCap 0)) = some (.heapAddr 0) := by decide

/-- R142, H7. -/
theorem test_vstorer :
    after (exec (.vstorer 3 0) (regs2 (.u32 35) .none)) (fun t => t.heap) = some [(3, .u32 35)] ∧
      causeOf (exec (.vstorer 4 8) (withCap 4)) = some (.regIndex 8) := by decide

/-- R143, H8. -/
theorem test_vloadr :
    after (exec (.vloadr 4 3) { base with heap := [(3, .u32 35)] }) (fun t => t.regs[4]) =
        some (.u32 35) ∧
      causeOf (exec (.vloadr 8 4) (withCap 4)) = some (.heapAddr 4) := by decide

/-- K7 and R150. -/
theorem test_vpush :
    causeOf (exec (.vpush (.u8 1))
        { base with stack := [.u8 0], cfg := { base.cfg with stackCapacity := some 1 } }) =
        some .stackOverflow ∧
      stackAfter (exec (.vpush (.i16 (-2))) base) = some [.i16 (-2)] := by decide

/-- R151, K6. -/
theorem test_vpushr :
    stackAfter (exec (.vpushr 1) { regs2 .none (.i16 100) with stack := [.u8 1] }) =
        some [.u8 1, .i16 100] ∧
      causeOf (exec (.vpushr 8) base) = some (.regIndex 8) := by decide

/-- R152, K2, K3. -/
theorem test_vpop :
    after (exec (.vpop 2) { base with stack := [.u8 1, .u32 35] }) (fun t => (t.regs[2], t.stack)) =
        some (.u32 35, [.u8 1]) ∧
      causeOf (exec (.vpop 8) base) = some .stackEmpty ∧
      causeOf (exec (.vpop 8) { base with stack := [.u8 1] }) = some (.regIndex 8) := by decide

/-- A1 to A6. -/
theorem test_add :
    stackAfter (exec (.add 0 1) (regs2 (.i16 100) (.i16 (-2)))) = some [.i16 98] ∧
      stackAfter (exec (.add 0 1) (regs2 (.u8 200) (.u8 100))) = some [.u8 44] ∧
      causeOf (exec (.add 0 1) (faulting (regs2 (.u8 200) (.u8 100)))) = some .intOverflow ∧
      stackAfter (exec (.add 0 1) (regs2 (.i64 9223372036854775807) (.i64 1))) =
        some [.i64 (-9223372036854775808)] ∧
      causeOf (exec (.add 0 1) (regs2 (.u8 1) (.i8 1))) = some (.kindMismatch (.u8 1) (.i8 1)) := by
  decide

/-- A10, A11, A9: rounding to nearest, ties to even. -/
theorem test_add_float :
    stackAfter (exec (.add 0 1) (regs2 (.f32 0x4B800000) (.f32 0x3F800000))) =
        some [.f32 0x4B800000] ∧
      stackAfter (exec (.add 0 1) (regs2 (.f32 0x4B800000) (.f32 0x40400000))) =
        some [.f32 0x4B800002] ∧
      stackAfter (exec (.add 0 1) (regs2 (.f64 0x3FB999999999999A) (.f64 0x3FC999999999999A))) =
        some [.f64 0x3FD3333333333334] := by decide +kernel

/-- A14, A15, A16. -/
theorem test_sub :
    stackAfter (exec (.sub 0 1) (regs2 (.u32 35) (.u32 5))) = some [.u32 30] ∧
      stackAfter (exec (.sub 0 1) (regs2 (.u8 0) (.u8 1))) = some [.u8 255] ∧
      stackAfter (exec (.sub 0 1) (regs2 (.i32 (-2147483648)) (.i32 1))) =
        some [.i32 2147483647] := by decide

/-- A18. -/
theorem test_sub_float :
    stackAfter (exec (.sub 0 1) (regs2 (.f32 0x3F800000) (.f32 0x3F800000))) = some [.f32 0] := by
  decide +kernel

/-- A20, A21, A23. -/
theorem test_mul :
    stackAfter (exec (.mul 0 1) (regs2 (.u32 7) (.u32 5))) = some [.u32 35] ∧
      stackAfter (exec (.mul 0 1) (regs2 (.u16 300) (.u16 300))) = some [.u16 24464] ∧
      stackAfter (exec (.mul 0 1) (regs2 (.i16 (-3)) (.i16 7))) = some [.i16 (-21)] := by decide

/-- A25, A26. -/
theorem test_mul_float :
    stackAfter (exec (.mul 0 1) (regs2 (.f32 0x3FC00000) (.f32 0x40000000))) =
        some [.f32 0x40400000] ∧
      stackAfter (exec (.mul 0 1) (regs2 (.f32 0x7F7FFFFF) (.f32 0x40000000))) =
        some [.f32 0x7F800000] := by decide +kernel

/-- A31, A32, A36, A38, A39, A48. -/
theorem test_div :
    stackAfter (exec (.div 0 1) (regs2 (.i16 (-7)) (.i16 2))) = some [.i16 (-3)] ∧
      stackAfter (exec (.div 0 1) (regs2 (.i16 7) (.i16 (-2)))) = some [.i16 (-3)] ∧
      causeOf (exec (.div 0 1) (regs2 (.u8 7) (.u8 0))) = some .divideByZero ∧
      causeOf (exec (.div 0 1) (regs2 (.i8 (-128)) (.i8 (-1)))) = some .intOverflow ∧
      stackAfter (exec (.div 0 1) (regs2 (.i8 (-128)) (.i8 1))) = some [.i8 (-128)] := by decide

/-- A41, A42, A44, A45. -/
theorem test_div_float :
    stackAfter (exec (.div 0 1) (regs2 (.f32 0x3F800000) (.f32 0))) = some [.f32 0x7F800000] ∧
      stackAfter (exec (.div 0 1) (regs2 (.f32 0xBF800000) (.f32 0))) = some [.f32 0xFF800000] ∧
      stackAfter (exec (.div 0 1) (regs2 (.f32 0x3F800000) (.f32 0x40400000))) =
        some [.f32 0x3EAAAAAB] ∧
      stackAfter (exec (.div 0 1) (regs2 (.f64 0x3FF0000000000000) (.f64 0x4008000000000000))) =
        some [.f64 0x3FD5555555555555] := by decide +kernel

/-- A49, A52, A58. -/
theorem test_and :
    stackAfter (exec (.and 0 1) (regs2 (.u8 204) (.u8 170))) = some [.u8 136] ∧
      stackAfter (exec (.and 0 1) (regs2 (.i8 (-1)) (.i8 15))) = some [.i8 15] ∧
      causeOf (exec (.and 0 1) (regs2 (.f32 0) (.f32 0))) = some (.kindMismatch (.f32 0) (.f32 0)) := by
  decide

/-- A50, A53. -/
theorem test_or :
    stackAfter (exec (.or 0 1) (regs2 (.u8 204) (.u8 170))) = some [.u8 238] ∧
      stackAfter (exec (.or 0 1) (regs2 (.i8 (-128)) (.i8 1))) = some [.i8 (-127)] := by decide

/-- A51, A54, A57. -/
theorem test_xor :
    stackAfter (exec (.xor 0 1) (regs2 (.u8 204) (.u8 170))) = some [.u8 102] ∧
      stackAfter (exec (.xor 0 1) (regs2 (.i16 (-1)) (.i16 255))) = some [.i16 (-256)] ∧
      causeOf (exec (.xor 0 1) (regs2 .none .none)) = some (.kindMismatch .none .none) := by decide

/-- A59, A60, A62, A65, A66. -/
theorem test_shr :
    stackAfter (exec (.shr 0 (.u8 1)) (regs2 (.u8 128) .none)) = some [.u8 64] ∧
      stackAfter (exec (.shr 0 (.i8 1)) (regs2 (.i8 (-128)) .none)) = some [.i8 (-64)] ∧
      stackAfter (exec (.shr 0 (.i8 1)) (regs2 (.i8 (-7)) .none)) = some [.i8 (-4)] ∧
      stackAfter (exec (.shr 0 (.u8 8)) (regs2 (.u8 255) .none)) = some [.u8 255] ∧
      stackAfter (exec (.shr 0 (.i16 (-1))) (regs2 (.i16 (-2)) .none)) = some [.i16 (-1)] := by decide

/-- A65, A76, A67: the faults of a shift. -/
theorem test_shr_faults :
    causeOf (exec (.shr 0 (.u8 8)) (faulting (regs2 (.u8 255) .none))) = some .intOverflow ∧
      causeOf (exec (.shr 0 .none) base) = some (.kindMismatch (.u8 0) .none) ∧
      causeOf (exec (.shr 0 (.u8 3)) (regs2 (.u32 9) .none)) =
        some (.kindMismatch (.u32 9) (.u8 3)) := by decide

/-- A69, A70, A71, A73, A75, A77. -/
theorem test_shl :
    stackAfter (exec (.shl 0 (.u16 4)) (regs2 (.u16 1) .none)) = some [.u16 16] ∧
      stackAfter (exec (.shl 0 (.u8 1)) (faulting (regs2 (.u8 129) .none))) = some [.u8 2] ∧
      stackAfter (exec (.shl 0 (.i8 1)) (regs2 (.i8 64) .none)) = some [.i8 (-128)] ∧
      stackAfter (exec (.shl 0 (.u8 9)) (regs2 (.u8 44) .none)) = some [.u8 88] ∧
      stackAfter (exec (.shl 0 (.i64 63)) (regs2 (.i64 1) .none)) =
        some [.i64 (-9223372036854775808)] ∧
      causeOf (exec (.shl 8 (.u8 1)) base) = some (.regIndex 8) := by decide

/-- Y1, Y2. -/
theorem test_printr :
    after (exec (.printr 1) (regs2 .none (.i16 100))) (fun t => t.obs) = some [.printR (.i16 100)] ∧
      causeOf (exec (.printr 8) base) = some (.regIndex 8) := by decide

/-- Y3, Y4. -/
theorem test_printv :
    after (exec (.printv 3) { base with heap := [(3, .u32 35)] }) (fun t => t.obs) =
        some [.printV (.u32 35)] ∧
      causeOf (exec (.printv 4) (withCap 4)) = some (.heapAddr 4) := by decide

/-- Y5: HALT writes running and nothing else. -/
theorem test_halt :
    after (exec .halt base) (fun t => decide (t = { base with running := false })) = some true := by
  decide

/-! ### The sequencer -/

/-- Y5: the instruction after a HALT executes. -/
theorem test_step_after_halt :
    after (step { base with code := [.halt, .mov 2 (.i8 (-1))], fi := 1, running := false })
      (fun t => (t.regs[2], t.fi, t.status)) = some (.i8 (-1), 2, .done) := by decide

/-- P3: after a JMP the next position is fetched, whatever ip holds. -/
theorem test_step_after_jmp :
    after (step { regs2 (.u8 4) .none with code := [.jmp 0, .nop] })
      (fun t => (t.ip, t.fi, t.status)) = some (4, 1, .running) := by decide

/-- P4: the fault record, and fi does not advance. -/
theorem test_step_fault_record :
    after (step { regs2 (.i16 3) .none with code := [.nop, .je 0], fi := 1, flagEq := true })
      (fun t => (t.status, t.fault, t.fi)) =
      some (.faulted, some (.execution (.badJumpKind (.i16 3)) 1 (.je 0)), 1) := by decide

/-- R244: an empty program is DONE as soon as run is invoked. -/
theorem test_step_empty : after (step State.reset) State.status = some .done := by decide

/-- P5: construct of a truncated buffer. -/
theorem test_construct_truncated :
    (construct Config.atReset [0x07, 0x00, 0x01, 0x00, 0x04, 0x01, 0x02]).fault =
      some (.decodeTruncated 2 5 4) := by decide

/-- The step after withFetchWord executes the word's instruction. -/
theorem test_withFetchWord :
    after (step (State.reset.withFetchWord 32 0x07000101)) (fun t => (t.regs[1], t.code, t.status)) =
      some (.u8 7, [.mov 1 (.u8 7)], .done) := by decide

theorem test_reset_inv : State.reset.Inv := by decide

end Sys2Proof.Tests
end

