-- ==== Sys2Proof/Tests/Witnesses.lean ====
section
/-! SUPPORT. Witnesses: for each statement of Certificates/Slice0/Obligations.lean that has hypotheses, a
concrete state and operands that meet them, clause by clause, at the boundary values of the operands. -/

namespace Sys2Proof.Tests

open Sys2Proof.Machine

/-- The machine with a stack of the given capacity and contents. -/
def stacked (cap : Nat) (stack : List Imm) : State :=
  { base with stack := stack, cfg := { base.cfg with stackCapacity := some cap } }

/-- The machine about to execute position `fi` of the program of the given bytes. -/
def loaded (prog : List Byte) (code : List Instr) (fi : Nat) : State :=
  { base with prog := prog, code := code, fi := fi }

/-- Whether a result is a next state. -/
def isNext (r : Result) : Bool := (after r fun _ => true).isSome

/-! ### The decoder -/

/-- OpcodeMapDecodes, and the spelling hypotheses of NOP, MOV, VSTORE and VPUSH: a payload of one byte, of
two, of eight, and both ends of the None tags. -/
theorem test_witness_spells :
    SpellsImm [0, 255] (.u8 255) ∧ SpellsImm [3, 0xFE, 0xFF] (.i16 (-2)) ∧
      SpellsImm [9, 0, 0, 0, 0, 0, 0, 0xF0, 0x3F] (.f64 0x3FF0000000000000) ∧
      SpellsImm [10] .none ∧ SpellsImm [255] .none :=
  ⟨⟨0, [255], by decide⟩, ⟨3, [0xFE, 0xFF], by decide⟩,
    ⟨9, [0, 0, 0, 0, 0, 0, 0xF0, 0x3F], by decide⟩, ⟨10, [], by decide⟩, ⟨255, [], by decide⟩⟩

/-- UnknownOpcodeDecodesAsNop: both ends of the range, before a buffer that decodes and one that does
not. -/
theorem test_witness_unknown :
    30 ≤ (30 : Byte).toNat ∧ 30 ≤ (255 : Byte).toNat ∧ decode [0x15] = .done [.ret] ∧
      decode [0x1E, 0x15] = .done [.nop, .ret] ∧ decode [0x07] = .truncated 0 1 1 ∧
      decode [0xFF, 0x07] = .truncated 1 2 1 := by decide

/-- TaggedImmediateDecodes: both ends of the None tags. -/
theorem test_witness_none_tags : 10 ≤ (10 : Byte).toNat ∧ 10 ≤ (255 : Byte).toNat := by decide

/-- DecodeOfAppendedBuffer: both clauses. -/
theorem test_witness_append :
    decode [0x00, 0x15] = .done [.nop, .ret] ∧ decode [0x16] = .done [.halt] ∧
      decode [0x07] = .truncated 0 1 1 ∧ decode ([0x00, 0x15] ++ [0x07]) = .truncated 2 3 1 := by
  decide

/-- TruncationRecordIsExact: a missing operand byte and a missing tag byte, and a payload of each length. -/
theorem test_witness_truncation :
    decode [0x15, 0x06, 7] = .truncated 1 3 1 ∧ decode [0x01, 7] = .truncated 0 2 1 ∧
      decode [0x11, 0] = .truncated 0 2 1 ∧ decode [0x15, 0x11, 2, 5] = .truncated 1 3 2 ∧
      decode [0x11, 8] = .truncated 0 2 4 ∧ decode [0x11, 6, 1, 2, 3, 4, 5, 6, 7] = .truncated 0 2 8 := by
  decide

/-- TruncationRecordIsExact: the two forms of the record, a byte operand missing after one that is there,
and the payload of the tag just read. -/
theorem test_witness_truncation_forms :
    ([7] : List Byte).length < (formatOf 0x06).byteOperands ∧ 3 = 1 + 1 + ([7] : List Byte).length ∧
      (formatOf 0x11).hasImmediate = true ∧
      ([2, 5] : List Byte)[(formatOf 0x11).byteOperands - 1]? = some 2 ∧
      3 = 1 + 1 + (formatOf 0x11).byteOperands ∧ payloadBytes (kindOfTag 2) = 2 := by decide

/-- CodeNoLongerThanBuffer: the empty buffer, and one whose instructions are one byte each. -/
theorem test_witness_length :
    decode [] = .done [] ∧ decode [0x00, 0x15] = .done [.nop, .ret] := by decide

/-- PlacedWordIsFetched: a one-byte word, and the longest instruction, of 88 bits. -/
theorem test_witness_placed :
    decodeTableWord 8 0x16 = some .halt ∧
      decodeTableWord 88 0x0807060504030201060701 = some (.mov 7 (.u64 0x0807060504030201)) := by
  decide

/-! ### Construction and the run loop -/

/-- ConstructGivesResetValues and TruncatedBufferExecutesNothing. -/
theorem test_witness_construct :
    decode [] = .done [] ∧ decode [0x16] = .done [.halt] ∧ decode [0x16, 0x07] = .truncated 1 2 1 := by
  decide

/-- RunStartsTheLoop: with an instruction and without one. -/
theorem test_witness_run :
    (construct Config.atReset [0x16]).status = .constructed ∧
      (construct Config.atReset [0x16]).fi < (construct Config.atReset [0x16]).code.length ∧
      State.reset.status = .constructed ∧ State.reset.code.length ≤ State.reset.fi := by decide

/-- StepRunsDecodedInstruction: an instruction that completes, and one that faults. -/
theorem test_witness_step :
    (∃ t, exec .halt (loaded [0x15, 0x16] [.ret, .halt] 1) = .next t) ∧
      (∃ f, exec .ret (loaded [0x15, 0x16] [.ret, .halt] 0) = .fault f) ∧
      (∀ fi, (loaded [0x15, 0x16] [.ret, .halt] fi).status = .running) ∧
      decode [0x15, 0x16] = .done [.ret, .halt] ∧ [Instr.ret, .halt][1]? = some .halt ∧
      [Instr.ret, .halt][0]? = some .ret :=
  ⟨⟨_, rfl⟩, ⟨_, rfl⟩, fun _ => rfl, by decide, rfl, rfl⟩

/-- TerminalMachineHasNoStep. -/
theorem test_witness_terminal :
    { base with status := .done }.status = .done ∧
      (construct Config.atReset [0x07]).status = .faulted ∧
      (construct Config.atReset [0x07]).fault = some (.decodeTruncated 0 1 1) := by decide

/-- StepKeepsInvariant, EveryRunEnds and StepKeepsCodeAndExtendsObs: a machine not yet run. -/
theorem test_witness_inv_constructed :
    (construct Config.atReset [0x16]).Inv ∧ ¬(construct Config.atReset [0x16]).terminal ∧
      ∃ t, step (construct Config.atReset [0x16]) = .next t := ⟨by decide, by decide, _, rfl⟩

/-- The same of a machine whose last instruction completes. -/
theorem test_witness_inv_completes :
    (loaded [0x07, 7] [.printr 7] 0).Inv ∧ ¬(loaded [0x07, 7] [.printr 7] 0).terminal ∧
      ∃ t, step (loaded [0x07, 7] [.printr 7] 0) = .next t := ⟨by decide, by decide, _, rfl⟩

/-- The same of a machine whose instruction faults. -/
theorem test_witness_inv_faults :
    (loaded [0x15, 0x16] [.ret, .halt] 0).Inv ∧ ¬(loaded [0x15, 0x16] [.ret, .halt] 0).terminal ∧
      ∃ t, step (loaded [0x15, 0x16] [.ret, .halt] 0) = .next t := ⟨by decide, by decide, _, rfl⟩

/-! ### Moves, compare and control transfer -/

/-- NopChangesNothing, HaltClearsRunningOnly. -/
theorem test_witness_nop_halt :
    (loaded [0xFF] [.nop] 0).status = .running ∧ (loaded [0xFF] [.nop] 0).code[0]? = some .nop ∧
      0x1E ≤ (0x1E : Byte).toNat ∧ 0x1E ≤ (0xFF : Byte).toNat ∧
      (loaded [0x16, 0] [.halt, .nop] 0).code[0]? = some .halt ∧
      0 + 1 < (loaded [0x16, 0] [.halt, .nop] 0).code.length := by decide

/-- The register clauses of every instruction: the last register, the first index that is none, and the
last operand byte; each meaning completes or faults there. -/
theorem test_witness_registers :
    (7 : Byte).toNat < 8 ∧ 8 ≤ (8 : Byte).toNat ∧ 8 ≤ (255 : Byte).toNat ∧
      isNext (exec (.mov 7 .none) base) = true ∧ isNext (exec (.movr 7 0) base) = true ∧
      isNext (exec (.movr 7 7) base) = true ∧ isNext (exec (.cmp 7 7) base) = true ∧
      isNext (exec (.printr 7) base) = true ∧ isNext (exec (.vpushr 7) base) = true ∧
      isNext (exec (.jmp 7) base) = true ∧ isNext (exec (.call 7) base) = true := by decide

/-- MovrCopiesRegister, CmpWritesBothFlags, PrintrEmitsRegister, JmpWritesIp: the fault clauses. -/
theorem test_witness_registers_fault :
    causeOf (exec (.movr 8 0) base) = some (.regIndex 8) ∧
      causeOf (exec (.movr 8 255) base) = some (.regIndex 255) ∧
      causeOf (exec (.cmp 7 8) base) = some (.regIndex 8) ∧
      causeOf (exec (.cmp 255 8) base) = some (.regIndex 255) ∧
      causeOf (exec (.printr 255) base) = some (.regIndex 255) ∧
      causeOf (exec (.jmp 8) base) = some (.regIndex 8) := by decide

/-- ComparisonByKindThenValue: the three clauses. -/
theorem test_witness_compare :
    (Imm.f32 0).kind ≠ (Imm.f64 0).kind ∧ Imm.none.kind = .none ∧
      (Imm.i8 (-128)).kind = (Imm.i8 127).kind ∧ (Imm.i8 (-128)).kind.isInteger = true := by decide

/-- FloatComparisonIsNumeric: a NaN, the largest finite pattern, the least subnormal, both zeros, both
infinities. -/
theorem test_witness_float_compare :
    isNaN binary32 0x7F800001 = true ∧ isFinite binary32 0x7F7FFFFF = true ∧
      isFinite binary32 1 = true ∧ isFinite binary32 0x80000000 = true ∧
      isInf binary32 0x7F800000 = true ∧ isInf binary32 0xFF800000 = true ∧
      isNaN binary64 0xFFFFFFFFFFFFFFFF = true ∧ isFinite binary64 0x7FEFFFFFFFFFFFFF = true ∧
      isInf binary64 0xFFF0000000000000 = true := by decide

/-- ExactlyOneConditionAfterCmp: each of the three outcomes. -/
theorem test_witness_conditions :
    flagsOf (.u8 1) (.u8 1) = some (true, false) ∧ flagsOf (.u8 2) (.u8 1) = some (false, true) ∧
      flagsOf (.u8 0) (.u8 1) = some (false, false) := by decide

/-- JmpWritesIp, ConditionalJumps, CallPushesReturnAddress: the greatest U8 and U16 targets, and kinds
that are neither. -/
theorem test_witness_targets :
    (regs2 (.u8 255) (.u16 65535)).regs[(0 : Byte).toNat] = .u8 255 ∧
      (regs2 (.u8 255) (.u16 65535)).regs[(1 : Byte).toNat] = .u16 65535 ∧
      (regs2 (.i16 5) .none).regs[(0 : Byte).toNat].kind ≠ .u8 ∧
      (regs2 (.i16 5) .none).regs[(0 : Byte).toNat].kind ≠ .u16 ∧
      (regs2 (.i16 5) .none).regs[(1 : Byte).toNat].kind ≠ .u8 ∧
      (regs2 (.i16 5) .none).regs[(1 : Byte).toNat].kind ≠ .u16 := by decide

/-- JmpWritesIp, RetPopsIntoIp: the narrowest ip that holds every target, and the reset machine's. -/
theorem test_witness_ipWidth :
    16 ≤ base.cfg.ipWidth ∧ 16 ≤ { base.cfg with ipWidth := 16 }.ipWidth ∧
      after (exec (.jmp 1) { regs2 .none (.u16 65535) with cfg := { base.cfg with ipWidth := 16 } })
        State.ip = some 65535 := by decide

/-- ConditionalJumps: each condition false and true. -/
theorem test_witness_taken :
    takenJe base = false ∧ takenJne base = true ∧ takenJg base = false ∧ takenJl base = true ∧
      takenJe { base with flagEq := true } = true ∧ takenJne { base with flagEq := true } = false ∧
      takenJg { base with flagGt := true } = true ∧ takenJl { base with flagGt := true } = false := by
  decide

/-- CallPushesReturnAddress and every pushing instruction: no bound, the last free place, a full stack,
a capacity of zero. -/
theorem test_witness_room : HasRoom base ∧ HasRoom (stacked 1 []) ∧ ¬HasRoom (stacked 1 [.none]) ∧
    ¬HasRoom (stacked 0 []) := by
  refine ⟨?_, ?_, ?_, ?_⟩ <;> simp [HasRoom, stacked, base, State.reset, Config.atReset]

/-- The bounded stacks of test_witness_room make the pushing instructions complete and fault. -/
theorem test_witness_room_exec :
    isNext (exec (.call 0) (stacked 1 [])) = true ∧
      causeOf (exec (.call 8) (stacked 1 [.none])) = some .stackOverflow ∧
      causeOf (exec (.call 8) (stacked 1 [])) = some (.regIndex 8) ∧
      causeOf (exec (.vload 15) (stacked 1 [.none])) = some .stackOverflow ∧
      causeOf (exec (.vpushr 7) (stacked 1 [.none])) = some .stackOverflow := by decide

/-- RetPopsIntoIp, VpopMovesTopToRegister: the kinds of the top entry, below it nothing and something. -/
theorem test_witness_stack :
    (stacked 1 [.u8 255]).stack = [] ++ [.u8 255] ∧
      (stacked 2 [.none, .u16 65535]).stack = [.none] ++ [.u16 65535] ∧
      (stacked 1 [.none]).stack = [] ++ [.none] ∧ Imm.none.kind ≠ .u8 ∧ Imm.none.kind ≠ .u16 ∧
      (stacked 1 []).stack = [] ∧ (stacked 1 [.none]).stack ≠ [] := by decide

/-! ### Heap and stack -/

/-- VstoreWritesCell, VstorerStoresRegister, VloadPushesCell, VloadrLoadsCell, PrintvEmitsCell: a heap in
canonical form, its last address, the first that does not exist, the whole range of 256 and an empty
heap. -/
theorem test_witness_heap :
    Memory.wf [(3, Imm.none), (15, .u8 1)] = true ∧ (15 : Byte).toNat < base.cfg.heapCap ∧
      base.cfg.heapCap ≤ (16 : Byte).toNat ∧ (255 : Byte).toNat < (withCap 256).cfg.heapCap ∧
      (withCap 0).cfg.heapCap ≤ (0 : Byte).toNat := by decide

/-- The same instructions complete at the last address and fault at the first that does not exist. -/
theorem test_witness_heap_exec :
    isNext (exec (.vstore 15 .none) base) = true ∧ isNext (exec (.vstorer 255 7) (withCap 256)) = true ∧
      isNext (exec (.vload 15) base) = true ∧ isNext (exec (.vloadr 7 15) base) = true ∧
      isNext (exec (.printv 15) base) = true ∧
      causeOf (exec (.vstorer 16 7) base) = some (.heapAddr 16) ∧
      causeOf (exec (.vloadr 8 16) base) = some (.heapAddr 16) ∧
      causeOf (exec (.vloadr 8 15) base) = some (.regIndex 8) ∧
      causeOf (exec (.vload 16) (stacked 0 [])) = some (.heapAddr 16) := by decide

/-- HeapDataIsCanonical: two stores in either order give the same canonical data. -/
theorem test_witness_canonical :
    Memory.wf (Memory.write (Memory.write [] 1 .none) 0 (.i8 1)) = true ∧
      Memory.write (Memory.write [] 1 .none) 0 (.i8 1) =
        Memory.write (Memory.write [] 0 (.i8 1)) 1 .none := by decide

/-- PushThenPopIsMov: a register that holds another value, and one that already holds the value. -/
theorem test_witness_push_pop :
    HasRoom (loaded [0x11, 10, 0x13, 7] [.vpush .none, .vpop 7] 0) ∧
      (loaded [0x11, 10, 0x13, 7] [.vpush .none, .vpop 7] 0).code[0]? = some (.vpush .none) ∧
      (loaded [0x11, 10, 0x13, 7] [.vpush .none, .vpop 7] 0).code[0 + 1]? = some (.vpop 7) ∧
      (loaded [0x11, 0, 0, 0x13, 7] [.vpush (.u8 0), .vpop 7] 0).regs[(7 : Byte).toNat] = .u8 0 :=
  ⟨fun _ h => (nomatch h), rfl, rfl, rfl⟩

/-! ### Arithmetic, bitwise and shifts -/

/-- IntegerAddSubMul: in range at the greatest value, just out of range in both modes, a supported kind. -/
theorem test_witness_integers :
    Kind.i8.isInteger = true ∧ Kind.i8 ∈ base.cfg.addSubKinds ∧
      Kind.i8.minVal ≤ (Imm.i8 126).val + (Imm.i8 1).val ∧
      (Imm.i8 126).val + (Imm.i8 1).val ≤ Kind.i8.maxVal ∧
      ¬((Imm.i8 127).val + (Imm.i8 1).val ≤ Kind.i8.maxVal) ∧
      ¬(Kind.i8.minVal ≤ (Imm.i8 (-128)).val - (Imm.i8 1).val) ∧
      ¬((Imm.i8 (-128)).val * (Imm.i8 (-1)).val ≤ Kind.i8.maxVal) ∧
      base.cfg.intOverflow = .wrap ∧ (faulting base).cfg.intOverflow = .fault := by decide

/-- IntegerDivision: the three clauses, at the most negative value. -/
theorem test_witness_division :
    (Imm.i8 0).val = 0 ∧ Kind.i8.isSigned = true ∧ (Imm.i8 (-128)).val = Kind.i8.minVal ∧
      (Imm.i8 (-1)).val = -1 ∧ (Imm.i8 1).val ≠ 0 ∧ (Imm.i8 1).val ≠ -1 ∧
      Kind.u64.isSigned = false := by decide

/-- FloatArithmeticPushes, both formats: an operation that gives a pattern, and one that gives a NaN. -/
theorem test_witness_float_arith :
    Kind.f32 ∈ base.cfg.addSubKinds ∧ Kind.f64 ∈ base.cfg.addSubKinds ∧
      floatOp binary32 .mul 0x3FC00000 0x40000000 = some 0x40400000 ∧
      floatOp binary32 .div 0 0 = none ∧ floatOp binary32 .sub 0x7F800000 0x7F800000 = none ∧
      floatOp binary64 .div 0x3FF0000000000000 0 = some 0x7FF0000000000000 ∧
      floatOp binary64 .add 0x7FF0000000000001 0 = none := by decide +kernel

/-- FloatArithmeticPushes: the IEEE 754 record, on a NaN result, and another record complete. -/
theorem test_witness_float_records :
    base.cfg.floatOps = .ieee 0 ∧ (∃ t, exec (.div 0 1) (regs2 (.f32 0) (.f32 0)) = .next t) ∧
      ∃ t, exec (.add 0 1)
        { regs2 (.f64 0) (.f64 0) with cfg := { base.cfg with floatOps := .other 7 } } = .next t :=
  ⟨rfl, ⟨_, rfl⟩, ⟨_, rfl⟩⟩

/-- FloatOperationsRoundToNearestEven: the ends of the finite patterns of both formats, a divisor that is
no zero; the least product underflows to zero and the greatest sum overflows. -/
theorem test_witness_rounding :
    0xFF7FFFFF < 2 * signWeight binary32 ∧ isFinite binary32 0xFF7FFFFF = true ∧
      isFinite binary32 0 = true ∧ isZero binary32 1 = false ∧
      0xFFEFFFFFFFFFFFFF < 2 * signWeight binary64 ∧ isFinite binary64 0xFFEFFFFFFFFFFFFF = true ∧
      floatOp binary32 .mul 1 1 = some 0 ∧
      floatOp binary32 .add 0x7F7FFFFF 0x7F7FFFFF = some 0x7F800000 := by decide +kernel

/-- FloatSpecialCases: a pattern for each clause. -/
theorem test_witness_special :
    isNaN binary32 0x7F800000 = false ∧ isZero binary32 0x7F800000 = false ∧
      isNaN binary32 0x7FC00000 = true ∧ isFinite binary32 0x80000001 = true ∧
      isZero binary32 0x80000001 = false ∧ isZero binary32 0x80000000 = true ∧
      floatSign binary32 0x80000000 = true ∧ isInf binary32 0x7F800000 = true ∧
      floatSign binary32 0x7F800000 = false ∧ floatSign binary32 0xFF800000 = true ∧
      isInf binary64 0x7FF0000000000000 = true ∧ isZero binary64 0 = true := by decide

/-- UnsupportedKindsFault: different kinds, None, a kind left out of ADDSUB_KINDS, a float kind. -/
theorem test_witness_kinds :
    (Imm.u8 1).kind ≠ (Imm.i8 1).kind ∧ Imm.none.kind = .none ∧
      Kind.i8 ∉ [Kind.u8, .u16] ∧ (Imm.f64 0).kind ∈ [Kind.none, .f32, .f64] ∧
      causeOf (exec (.add 0 1)
        { regs2 (.i8 1) (.i8 1) with cfg := { base.cfg with addSubKinds := [.u8, .u16] } }) =
        some (.kindMismatch (.i8 1) (.i8 1)) := by decide

/-- AluRegisterIndexFaults: the first operand, the second, and the one of a shift. -/
theorem test_witness_alu_registers :
    causeOf (exec (.add 8 255) base) = some (.regIndex 8) ∧
      causeOf (exec (.div 7 8) base) = some (.regIndex 8) ∧
      causeOf (exec (.xor 255 8) base) = some (.regIndex 255) ∧
      causeOf (exec (.shr 8 .none) base) = some (.regIndex 8) := by decide

/-- The StackOverflow clauses of the ALU statements: a result that fits nowhere, and the last free place. -/
theorem test_witness_alu_stack :
    causeOf (exec (.add 0 1) (stacked 0 [])) = some .stackOverflow ∧
      causeOf (exec (.mul 0 1) (stacked 1 [.none])) = some .stackOverflow ∧
      causeOf (exec (.div 0 1) { regs2 (.f32 0) (.f32 0) with cfg := (stacked 0 []).cfg }) =
        some .stackOverflow ∧
      causeOf (exec (.or 0 1) (stacked 0 [])) = some .stackOverflow ∧
      causeOf (exec (.shl 0 (.u8 7)) (stacked 0 [])) = some .stackOverflow ∧
      causeOf (exec (.div 0 1) (stacked 0 [])) = some .divideByZero ∧
      isNext (exec (.add 0 1) (stacked 1 [])) = true := by decide

/-- BitwisePushesBitByBit: the narrowest and the widest kind. -/
theorem test_witness_bitwise :
    Kind.u8.isInteger = true ∧ Kind.i64.isInteger = true ∧
      isNext (exec (.xor 0 1) (regs2 (.i64 (-1)) (.i64 0))) = true ∧
      isNext (exec (.or 7 7) base) = true ∧ isNext (exec (.and 7 7) base) = true := by decide

/-- ShiftsPush: an amount of 0, of N - 1, of N and a negative one, in both modes. -/
theorem test_witness_shifts :
    (0 ≤ (Imm.i8 0).val ∧ (Imm.i8 0).val < Kind.i8.width) ∧
      (0 ≤ (Imm.i8 7).val ∧ (Imm.i8 7).val < Kind.i8.width) ∧
      ¬(0 ≤ (Imm.i8 8).val ∧ (Imm.i8 8).val < Kind.i8.width) ∧
      ¬(0 ≤ (Imm.i8 (-1)).val ∧ (Imm.i8 (-1)).val < Kind.i8.width) ∧
      isNext (exec (.shr 0 (.i8 (-1))) (regs2 (.i8 1) .none)) = true ∧
      causeOf (exec (.shl 0 (.i8 8)) (faulting (regs2 (.i8 1) .none))) = some .intOverflow := by decide

/-! ### Frames and whole-machine rules -/

/-- NoInstructionTouchesSequencer, RegistersChangeOnlyAtDestination,
ControlStateChangesOnlyByItsInstructions, HeapChangesOnlyAtStoredCell, StackChangesOnlyAtTop: completing
instructions with and without a destination, a store, a push, a pop, an event. -/
theorem test_witness_frames :
    isNext (exec (.mov 7 .none) base) = true ∧ (Instr.mov 7 .none).destReg = some 7 ∧
      (Instr.vstore 15 .none).storesTo = some 15 ∧ Memory.wf base.heap = true ∧
      (Instr.add 0 1).pushes = true ∧ isNext (exec (.add 0 1) base) = true ∧
      (Instr.vpop 0).pops = true ∧ isNext (exec (.vpop 0) (stacked 1 [.none])) = true ∧
      (Instr.nop).pushes = false ∧ (Instr.nop).pops = false ∧ (Instr.nop).isCmp = false ∧
      (Instr.nop).writesIp = false ∧ (Instr.nop).emits = false := by
  decide

/-- FaultsOnlyAsTheMatrixAllows, RunningIsNeverRead, ObsIsNeverRead, IpIsReadOnlyByCall: an instruction
that completes and one that faults, neither a CALL. -/
theorem test_witness_never_read :
    (∃ t, exec .halt base = .next t) ∧ (∃ f, exec .ret base = .fault f) ∧
      (∀ r, Instr.halt ≠ .call r) ∧ (∀ r, Instr.ret ≠ .call r) :=
  ⟨⟨_, rfl⟩, ⟨_, rfl⟩, nofun, nofun⟩

end Sys2Proof.Tests
end

namespace Sys2Proof.Machine

/-! PROOFS. What a completing instruction can have done, said once for all 30 instructions, and the
rules about the state that follow from it. -/

section Effect

/-- The instruction neither pushes nor pops (10_state.md R33). -/
abbrev LeavesStack (i : Instr) : Prop := i.pushes = false ∧ i.pops = false

/-- What one completing instruction can do to the state: one constructor per kind of update, with what
makes the instruction one that may do it. `exec_effect` ties it to the model. -/
inductive Effect (i : Instr) (s : State) : State → Prop
  | unchanged (hstack : LeavesStack i) : Effect i s s
  | regWritten (r : Byte) (v : Imm) (hr : r.toNat < 8) (hdest : i.destReg = some r)
      (hstack : LeavesStack i) : Effect i s { s with regs := s.regs.set r.toNat v hr }
  | stored (a : Byte) (v : Imm) (ha : a.toNat < s.cfg.heapCap) (hstore : i.storesTo = some a)
      (hstack : LeavesStack i) :
      Effect i s { s with heap := Memory.write s.heap a.toNat v }
  | compared (v w : Imm) (hcmp : i.isCmp = true) (hstack : LeavesStack i) :
      Effect i s (setFlags s (immEq v w) (immGt v w))
  | emitted (e : Event) (hemit : i.emits = true) (hstack : LeavesStack i) :
      Effect i s (emit s e)
  | halted (hhalt : i = .halt) (hstack : LeavesStack i) : Effect i s (setRunning s false)
  | jumped (v : Imm) (x : Nat) (hx : jumpTarget s.cfg v = some x) (hip : i.writesIp = true)
      (hstack : LeavesStack i) : Effect i s (setIp s x)
  | pushed (v : Imm) (hroom : stackHasRoom s.cfg s.stack = true) (hpush : i.pushes = true) :
      Effect i s { s with stack := s.stack ++ [v] }
  | called (u v : Imm) (x : Nat) (hroom : stackHasRoom s.cfg s.stack = true)
      (hx : jumpTarget s.cfg v = some x) (hip : i.writesIp = true) (hpush : i.pushes = true) :
      Effect i s (setIp { s with stack := s.stack ++ [u] } x)
  | popped (below : List Imm) (v : Imm) (r : Byte) (hr : r.toNat < 8)
      (htop : s.stack = below ++ [v]) (hdest : i.destReg = some r) (hpop : i.pops = true) :
      Effect i s { s with stack := below, regs := s.regs.set r.toNat v hr }
  | returned (below : List Imm) (v : Imm) (x : Nat) (htop : s.stack = below ++ [v])
      (hx : jumpTarget s.cfg v = some x) (hip : i.writesIp = true) (hpop : i.pops = true) :
      Effect i s (setIp { s with stack := below } x)

variable {i : Instr} {s t : State}

theorem effect_of_writeReg {r : Byte} {v : Imm} (h : writeReg s r v = .ok t)
    (hdest : i.destReg = some r) (hstack : LeavesStack i) : Effect i s t := by
  obtain ⟨hr, rfl⟩ := writeReg_eq_ok.mp h
  exact .regWritten r v hr hdest hstack

theorem effect_of_heapWrite {a : Byte} {v : Imm} (h : heapWrite s a v = .ok t)
    (hstore : i.storesTo = some a) (hstack : LeavesStack i) : Effect i s t := by
  obtain ⟨ha, rfl⟩ := heapWrite_eq_ok.mp h
  exact .stored a v ha hstore hstack

theorem effect_of_push {v : Imm} (h : push s v = .ok t) (hpush : i.pushes = true) :
    Effect i s t := by
  obtain ⟨hroom, rfl⟩ := push_eq_ok.mp h
  exact .pushed v hroom hpush

theorem effect_of_jumpReg {r : Byte} (h : jumpReg s r = .ok t) (hip : i.writesIp = true)
    (hstack : LeavesStack i) : Effect i s t := by
  obtain ⟨_, x, hx, rfl⟩ := jumpReg_eq_ok.mp h
  exact .jumped _ x hx hip hstack

theorem effect_of_jumpIf {taken : Bool} {r : Byte} (h : jumpIf s taken r = .ok t)
    (hip : i.writesIp = true) (hstack : LeavesStack i) : Effect i s t := by
  cases taken with
  | false =>
    cases h
    exact .unchanged hstack
  | true => exact effect_of_jumpReg h hip hstack

theorem effect_of_aluRR {kinds : Kind → Bool} {apply : Imm → Imm → Except Cause Imm} {r1 r2 : Byte}
    (h : aluRR s kinds apply r1 r2 = .ok t) (hpush : i.pushes = true) : Effect i s t := by
  obtain ⟨v, hroom, rfl⟩ := aluRR_eq_ok h
  exact .pushed v hroom hpush

theorem effect_of_aluRI {kinds : Kind → Bool} {apply : Imm → Imm → Except Cause Imm} {r : Byte}
    {imm : Imm} (h : aluRI s kinds apply r imm = .ok t) (hpush : i.pushes = true) :
    Effect i s t := by
  obtain ⟨v, hroom, rfl⟩ := aluRI_eq_ok h
  exact .pushed v hroom hpush

/-- A completing instruction has one of the effects, of the kind it may have. -/
theorem exec_effect (h : exec i s = .next t) : Effect i s t := by
  cases i with
  | nop =>
    cases h
    exact .unchanged ⟨rfl, rfl⟩
  | mov r v => exact effect_of_writeReg (conclude_eq_next.mp h) rfl ⟨rfl, rfl⟩
  | movr d r =>
    obtain ⟨v, -, h⟩ := bind_eq_ok.mp (conclude_eq_next.mp h)
    exact effect_of_writeReg h rfl ⟨rfl, rfl⟩
  | vloadr r a =>
    obtain ⟨v, -, h⟩ := bind_eq_ok.mp (conclude_eq_next.mp h)
    exact effect_of_writeReg h rfl ⟨rfl, rfl⟩
  | vstore a v => exact effect_of_heapWrite (conclude_eq_next.mp h) rfl ⟨rfl, rfl⟩
  | vstorer a r =>
    obtain ⟨v, -, h⟩ := bind_eq_ok.mp (conclude_eq_next.mp h)
    exact effect_of_heapWrite h rfl ⟨rfl, rfl⟩
  | cmp r1 r2 =>
    obtain ⟨v, -, h⟩ := bind_eq_ok.mp (conclude_eq_next.mp h)
    obtain ⟨w, -, h⟩ := bind_eq_ok.mp h
    cases h
    exact .compared v w rfl ⟨rfl, rfl⟩
  | printr r =>
    obtain ⟨v, -, h⟩ := bind_eq_ok.mp (conclude_eq_next.mp h)
    cases h
    exact .emitted _ rfl ⟨rfl, rfl⟩
  | printv a =>
    obtain ⟨v, -, h⟩ := bind_eq_ok.mp (conclude_eq_next.mp h)
    cases h
    exact .emitted _ rfl ⟨rfl, rfl⟩
  | halt =>
    cases h
    exact .halted rfl ⟨rfl, rfl⟩
  | jmp r => exact effect_of_jumpReg (conclude_eq_next.mp h) rfl ⟨rfl, rfl⟩
  | je r | jne r | jg r | jl r =>
    exact effect_of_jumpIf (conclude_eq_next.mp h) rfl ⟨rfl, rfl⟩
  | vpush v => exact effect_of_push (conclude_eq_next.mp h) rfl
  | vload _ | vpushr _ =>
    obtain ⟨v, -, h⟩ := bind_eq_ok.mp (conclude_eq_next.mp h)
    exact effect_of_push h rfl
  | add r1 r2 | sub r1 r2 | mul r1 r2 | div r1 r2 | and r1 r2 | or r1 r2 | xor r1 r2 =>
    exact effect_of_aluRR (conclude_eq_next.mp h) rfl
  | shr r v | shl r v => exact effect_of_aluRI (conclude_eq_next.mp h) rfl
  | call r =>
    obtain ⟨u, hu, h⟩ := bind_eq_ok.mp (conclude_eq_next.mp h)
    obtain ⟨hroom, rfl⟩ := push_eq_ok.mp hu
    obtain ⟨_, x, hx, rfl⟩ := jumpReg_eq_ok.mp h
    exact .called _ _ x hroom hx rfl rfl
  | vpop r =>
    obtain ⟨⟨v, u⟩, hu, h⟩ := bind_eq_ok.mp (conclude_eq_next.mp h)
    obtain ⟨below, htop, rfl⟩ := pop_eq_ok.mp hu
    obtain ⟨hr, rfl⟩ := writeReg_eq_ok.mp h
    exact .popped below v r hr htop rfl rfl
  | ret =>
    obtain ⟨⟨v, u⟩, hu, h⟩ := bind_eq_ok.mp (conclude_eq_next.mp h)
    obtain ⟨below, htop, rfl⟩ := pop_eq_ok.mp hu
    cases hx : jumpTarget s.cfg v with
    | none => simp [hx] at h
    | some x =>
      simp only [hx] at h
      cases h
      exact .returned below v x htop hx rfl rfl

end Effect

/-! ### Frames: what each effect leaves unchanged -/

section Frame

variable {i : Instr} {s t : State}

theorem Effect.sequencer_eq (h : Effect i s t) :
    t.cfg = s.cfg ∧ t.prog = s.prog ∧ t.code = s.code ∧ t.fi = s.fi ∧ t.status = s.status ∧
      t.fault = s.fault := by
  cases h <;> exact ⟨rfl, rfl, rfl, rfl, rfl, rfl⟩

theorem Effect.reg_eq (h : Effect i s t) {n : Nat} (hn : n < 8)
    (hdest : ∀ r : Byte, i.destReg = some r → r.toNat ≠ n) : t.regs[n] = s.regs[n] := by
  cases h with
  | regWritten r v hr hd => exact Vector.getElem_set_ne hr hn (hdest r hd)
  | popped below v r hr htop hd => exact Vector.getElem_set_ne hr hn (hdest r hd)
  | _ => rfl

theorem Effect.flags_eq (h : Effect i s t) (hcmp : i.isCmp = false) :
    t.flagEq = s.flagEq ∧ t.flagGt = s.flagGt := by
  cases h with
  | compared v w hc => simp [hc] at hcmp
  | _ => exact ⟨rfl, rfl⟩

theorem Effect.running_eq (h : Effect i s t) (hhalt : i ≠ .halt) : t.running = s.running := by
  cases h with
  | halted hh => exact absurd hh hhalt
  | _ => rfl

theorem Effect.ip_eq (h : Effect i s t) (hip : i.writesIp = false) : t.ip = s.ip := by
  cases h with
  | jumped v x hx hw => simp [hw] at hip
  | called u v x hroom hx hw => simp [hw] at hip
  | returned below v x htop hx hw => simp [hw] at hip
  | _ => rfl

theorem Effect.obs_eq (h : Effect i s t) (hemit : i.emits = false) : t.obs = s.obs := by
  cases h with
  | emitted e he => simp [he] at hemit
  | _ => rfl

theorem Effect.obs_prefix (h : Effect i s t) : s.obs <+: t.obs := by
  cases h with
  | emitted e => exact List.prefix_append s.obs [e]
  | _ => exact List.prefix_rfl

theorem Effect.draws_eq (h : Effect i s t) : t.draws = s.draws := by
  cases h <;> rfl

theorem Effect.read_heap_eq (h : Effect i s t) (hwf : Memory.wf s.heap = true) {a : Nat}
    (hstore : ∀ b : Byte, i.storesTo = some b → b.toNat ≠ a) :
    Memory.read t.heap a = Memory.read s.heap a := by
  cases h with
  | stored b v hb hs =>
    exact (Memory.read_write hwf b.toNat v a).trans (if_neg (hstore b hs).symm)
  | _ => rfl

theorem pushes_eq_false_of_pops (hpop : i.pops = true) : i.pushes = false := by
  cases i with
  | vpop r => rfl
  | ret => rfl
  | _ => cases hpop

theorem pops_eq_false_of_pushes (hpush : i.pushes = true) : i.pops = false := by
  by_contra hpop
  simp [pushes_eq_false_of_pops (eq_true_of_ne_false hpop)] at hpush

/-- The three things an instruction can do to the stack, each by the instructions of its class only. -/
theorem Effect.stack_cases (h : Effect i s t) :
    (LeavesStack i ∧ t.stack = s.stack) ∨
      (i.pushes = true ∧ i.pops = false ∧ ∃ v, t.stack = s.stack ++ [v]) ∨
      (i.pops = true ∧ i.pushes = false ∧ ∃ v, s.stack = t.stack ++ [v]) := by
  cases h with
  | pushed v hroom hpush => exact .inr (.inl ⟨hpush, pops_eq_false_of_pushes hpush, v, rfl⟩)
  | called u v x hroom hx hip hpush =>
    exact .inr (.inl ⟨hpush, pops_eq_false_of_pushes hpush, u, rfl⟩)
  | popped below v r hr htop hdest hpop =>
    exact .inr (.inr ⟨hpop, pushes_eq_false_of_pops hpop, v, htop⟩)
  | returned below v x htop hx hip hpop =>
    exact .inr (.inr ⟨hpop, pushes_eq_false_of_pops hpop, v, htop⟩)
  | _ => exact .inl ⟨‹LeavesStack i›, rfl⟩

end Frame

/-! ### The invariant -/

section Invariant

/-- A push that has room keeps the stack within its capacity (10_state.md R33). -/
theorem stackWithinCapacity_concat {cfg : Config} {stack : List Imm}
    (hroom : stackHasRoom cfg stack = true) (v : Imm) :
    stackWithinCapacity cfg (stack ++ [v]) = true := by
  cases hcap : cfg.stackCapacity <;>
    simp_all [stackHasRoom, stackWithinCapacity]

/-- A pop keeps the stack within its capacity. -/
theorem stackWithinCapacity_of_concat {cfg : Config} {below : List Imm} {v : Imm}
    (h : stackWithinCapacity cfg (below ++ [v]) = true) : stackWithinCapacity cfg below = true := by
  cases hcap : cfg.stackCapacity with
  | none => simp [stackWithinCapacity, hcap]
  | some cap =>
    simp only [stackWithinCapacity, hcap, List.length_append, List.length_singleton,
      decide_eq_true_eq] at h ⊢
    omega

theorem stackWithinCapacity_nil (cfg : Config) : stackWithinCapacity cfg [] = true := by
  cases hcap : cfg.stackCapacity <;> simp [stackWithinCapacity, hcap]

/-- A greater value is not an equal one: no comparison makes both flags true (41_compare_branch.md R122). -/
theorem not_floatEq_and_floatGt (F : FloatFormat) (a b : Nat) :
    ¬(floatEq F a b = true ∧ floatGt F a b = true) := by
  simp only [floatEq, floatGt, Bool.and_eq_true, decide_eq_true_eq]
  rintro ⟨⟨-, heq⟩, -, hgt⟩
  omega

theorem not_immEq_and_immGt (v w : Imm) : ¬(immEq v w = true ∧ immGt v w = true) := by
  unfold immEq immGt
  split_ifs
  · simp
  · simp
  · exact not_floatEq_and_floatGt _ _ _
  · exact not_floatEq_and_floatGt _ _ _
  · simp only [decide_eq_true_eq]
    omega

variable {i : Instr} {s t : State}

theorem Effect.heap_canonical (h : Effect i s t) (hwf : Memory.wf s.heap = true) :
    Memory.wf t.heap = true := by
  cases h with
  | stored a v => exact Memory.wf_write hwf _ _
  | _ => exact hwf

theorem Effect.heap_below (h : Effect i s t)
    (hbelow : Memory.below s.cfg.heapCap s.heap = true) :
    Memory.below t.cfg.heapCap t.heap = true := by
  cases h with
  | stored a v ha => exact Memory.below_write hbelow ha v
  | _ => exact hbelow

/-- `ip` keeps whatever bound it has, or receives a jump target, which meets the bounds of R29. -/
theorem Effect.ip_cases (h : Effect i s t) :
    t.ip = s.ip ∨ ∃ v, jumpTarget s.cfg v = some t.ip := by
  cases h with
  | jumped v x hx => exact .inr ⟨v, hx⟩
  | called u v x hroom hx => exact .inr ⟨v, hx⟩
  | returned below v x htop hx => exact .inr ⟨v, hx⟩
  | _ => exact .inl rfl

theorem Effect.ip_le (h : Effect i s t) (hip : s.ip ≤ 65535) : t.ip ≤ 65535 := by
  obtain hkept | ⟨v, hv⟩ := h.ip_cases
  · exact hkept ▸ hip
  · exact (jumpTarget_bounds hv).1

theorem Effect.ip_lt (h : Effect i s t) (hip : s.ip < 2 ^ s.cfg.ipWidth) :
    t.ip < 2 ^ s.cfg.ipWidth := by
  obtain hkept | ⟨v, hv⟩ := h.ip_cases
  · exact hkept ▸ hip
  · exact (jumpTarget_bounds hv).2

theorem Effect.stack_within (h : Effect i s t)
    (hs : stackWithinCapacity s.cfg s.stack = true) :
    stackWithinCapacity t.cfg t.stack = true := by
  cases h with
  | pushed v hroom => exact stackWithinCapacity_concat hroom v
  | called u v x hroom => exact stackWithinCapacity_concat hroom u
  | popped below v r hr htop => exact stackWithinCapacity_of_concat (htop ▸ hs)
  | returned below v x htop => exact stackWithinCapacity_of_concat (htop ▸ hs)
  | _ => exact hs

theorem Effect.flags_apart (h : Effect i s t) (hs : ¬(s.flagEq = true ∧ s.flagGt = true)) :
    ¬(t.flagEq = true ∧ t.flagGt = true) := by
  cases h with
  | compared v w => exact not_immEq_and_immGt v w
  | _ => exact hs

/-- A completing instruction keeps the part of the invariant that holds while not FAULTED. -/
theorem Effect.keeps_liveInv (h : Effect i s t) (hs : liveInv s) : liveInv t := by
  obtain ⟨hcode, hfi, hip, hstack, hflags⟩ := hs
  obtain ⟨-, hprog', hcode', hfi', -, -⟩ := h.sequencer_eq
  refine ⟨?_, ?_, h.ip_le hip, h.stack_within hstack, h.flags_apart hflags⟩
  · rw [hprog', hcode', hcode]
  · rw [hcode', hfi']
    exact hfi

@[simp] theorem runStatus_ne_faulted (fi : Nat) (code : List Instr) :
    runStatus fi code ≠ .faulted := by
  unfold runStatus
  split <;> decide

/-- A machine without a record that has not faulted has the rest of the invariant from its data. -/
theorem inv_of_live (hwf : Memory.wf s.heap = true)
    (hbelow : Memory.below s.cfg.heapCap s.heap = true) (hip : s.ip < 2 ^ s.cfg.ipWidth)
    (hstatus : s.status ≠ .faulted) (hfault : s.fault = none) (hpos : positionFits s = true)
    (hlive : liveInv s) : s.Inv :=
  ⟨hwf, hbelow, hip, by simp [hfault, hstatus], by simp [recordMatches, hfault], hpos,
    fun _ => hlive⟩

/-- The STATUS of the run loop fits a position inside `code` or right after it (10_state.md R40). -/
theorem positionFits_of_runStatus (hs : s.status = runStatus s.fi s.code)
    (hfi : s.fi ≤ s.code.length) : positionFits s = true := by
  unfold positionFits
  rw [hs, runStatus]
  by_cases h : s.fi < s.code.length
  · simp [h]
  · simp only [h, if_false, decide_eq_true_eq]
    omega

/-- Before a fault there is no record (10_state.md R41). -/
theorem fault_eq_none_of_inv (hs : s.Inv) (hstatus : s.status ≠ .faulted) : s.fault = none := by
  obtain ⟨-, -, -, hfault, -⟩ := hs
  simpa [hstatus] using hfault

theorem startRun_keeps_inv (hs : s.Inv) (hstatus : s.status ≠ .faulted) : (startRun s).Inv := by
  have hfault := fault_eq_none_of_inv hs hstatus
  obtain ⟨hwf, hbelow, hip, -, -, -, hlive⟩ := hs
  obtain ⟨hcode, hfi, hrest⟩ := hlive hstatus
  exact inv_of_live hwf hbelow hip (runStatus_ne_faulted _ _) hfault
    (positionFits_of_runStatus rfl hfi) ⟨hcode, hfi, hrest⟩

theorem advance_keeps_inv (hs : s.Inv) (hstatus : s.status = .running) (h : Effect i s t) :
    (advance t).Inv := by
  have hne : s.status ≠ .faulted := by simp [hstatus]
  have hfault := fault_eq_none_of_inv hs hne
  obtain ⟨hwf, hbelow, hip, -, -, hpos, hlive⟩ := hs
  obtain ⟨hcfg', -, hcode', hfi', -, hfault'⟩ := h.sequencer_eq
  obtain ⟨hcode, -, hrest⟩ := h.keeps_liveInv (hlive hne)
  have hfi : (advance t).fi ≤ (advance t).code.length := by
    simp only [positionFits, hstatus, decide_eq_true_eq] at hpos
    simp only [advance_fi, advance_code, hfi', hcode']
    omega
  exact inv_of_live (h.heap_canonical hwf) (h.heap_below hbelow)
    (by simpa [hcfg'] using h.ip_lt hip) (runStatus_ne_faulted _ _)
    (by simpa [hfault'] using hfault) (positionFits_of_runStatus rfl hfi) ⟨hcode, hfi, hrest⟩

/-- Taking a fault meets the invariant when the record names what faulted, whatever the free values. -/
theorem recordFault_inv {f : Fault} (hf : recordMatches (recordFault s f) = true) :
    (recordFault s f).Inv :=
  ⟨Memory.wf_ofCells _ _, Memory.below_ofCells _ _, Nat.mod_lt _ (Nat.two_pow_pos _), by simp,
    hf, rfl, fun hne => absurd rfl hne⟩

/-- The record of a fault of the fetched instruction names its position and itself. -/
theorem recordMatches_of_exec_fault {f : Fault} (hi : fetch s = some i)
    (h : exec i s = .fault f) : recordMatches (recordFault s f) = true := by
  obtain ⟨r, hr⟩ := exec_eq_conclude i s
  obtain ⟨c, -, rfl⟩ := conclude_eq_fault.mp (hr ▸ h)
  have hcode : s.code[s.fi]? = some i := hi
  simp [recordMatches, hcode]

theorem freshState_inv {cfg : Config} {prog : List Byte} {code : List Instr}
    (h : decode prog = .done code) : (freshState cfg prog code).Inv :=
  inv_of_live rfl rfl (Nat.two_pow_pos _) (by simp) rfl rfl
    ⟨h, Nat.zero_le _, Nat.zero_le _, stackWithinCapacity_nil cfg, by simp⟩

theorem construct_of_done {cfg : Config} {prog : List Byte} {code : List Instr}
    (h : decode prog = .done code) : construct cfg prog = freshState cfg prog code := by
  simp [construct, h]

theorem construct_of_truncated {cfg : Config} {prog : List Byte} {start pos n : Nat}
    (h : decode prog = .truncated start pos n) :
    construct cfg prog = recordFault (freshState cfg prog []) (.decodeTruncated start pos n) := by
  simp [construct, h]

theorem construct_inv (cfg : Config) (prog : List Byte) : (construct cfg prog).Inv := by
  cases h : decode prog with
  | done code =>
    rw [construct_of_done h]
    exact freshState_inv h
  | truncated start pos n =>
    rw [construct_of_truncated h]
    exact recordFault_inv (by simp [recordMatches, h])

theorem step_of_done (hs : s.status = .done) : step s = .refused .runOver := by
  simp [step, whenOver, hs]

theorem step_of_faulted {f : Fault} (hs : s.status = .faulted) (hf : s.fault = some f) :
    step s = .fault f := by
  simp [step, whenOver, hs, hf]

theorem reset_eq_construct : State.reset = construct Config.atReset [] := rfl

end Invariant

/-! ### Noninterference: a part of the state that an instruction does not read -/

section Unread

/-- The answer with its next state, if it has one, changed. -/
def mapNext (φ : State → State) : Result → Result
  | .next t => .next (φ t)
  | .fault f => .fault f
  | .refused why => .refused why

/-- A change of the state that the primitives neither read nor undo: it leaves what they and the record of
a fault read, and commutes with what they write. -/
structure Unread (φ : State → State) : Prop where
  cfg (s : State) : (φ s).cfg = s.cfg
  fi (s : State) : (φ s).fi = s.fi
  regs (s : State) : (φ s).regs = s.regs
  stack (s : State) : (φ s).stack = s.stack
  heap (s : State) : (φ s).heap = s.heap
  flagEq (s : State) : (φ s).flagEq = s.flagEq
  flagGt (s : State) : (φ s).flagGt = s.flagGt
  set_regs (s : State) (regs : Vector Imm 8) : { φ s with regs := regs } = φ { s with regs := regs }
  set_stack (s : State) (stack : List Imm) : { φ s with stack := stack } = φ { s with stack := stack }
  set_heap (s : State) (heap : Memory) : { φ s with heap := heap } = φ { s with heap := heap }
  set_flags (s : State) (eq gt : Bool) : setFlags (φ s) eq gt = φ (setFlags s eq gt)

/-- A change that the control transfers do not read or undo either: it leaves `ip` alone. -/
structure UnreadByJumps (φ : State → State) : Prop extends Unread φ where
  ip (s : State) : (φ s).ip = s.ip
  set_ip (s : State) (x : Nat) : setIp (φ s) x = φ (setIp s x)

theorem unreadByJumps_setRunning (b : Bool) : UnreadByJumps fun s => setRunning s b := by
  constructor
  · constructor <;> intros <;> rfl
  · intros; rfl
  · intros; rfl

theorem unread_setIp (x : Nat) : Unread fun s => setIp s x := by
  constructor <;> intros <;> rfl

@[simp] theorem except_map_ok {α β : Type} (f : α → β) (a : α) :
    (Except.ok a : Except Cause α).map f = .ok (f a) := rfl

@[simp] theorem except_map_error {α β : Type} (f : α → β) (c : Cause) :
    (Except.error c : Except Cause α).map f = .error c := rfl

theorem map_bind {α β γ : Type} (x : Except Cause α) (f : α → Except Cause β) (g : β → γ) :
    (x.bind f).map g = x.bind fun a => (f a).map g := by
  cases x <;> rfl

theorem bind_map {α β γ : Type} (x : Except Cause α) (g : α → β) (f : β → Except Cause γ) :
    (x.map g).bind f = x.bind fun a => f (g a) := by
  cases x <;> rfl

variable {φ : State → State} (hφ : Unread φ) (s : State)
include hφ

theorem Unread.readReg_eq (r : Byte) : readReg (φ s) r = readReg s r := by
  simp only [readReg, hφ.regs]

theorem Unread.heapRead_eq (a : Byte) : heapRead (φ s) a = heapRead s a := by
  simp only [heapRead, hφ.cfg, hφ.heap]

theorem Unread.writeReg_eq (r : Byte) (v : Imm) :
    writeReg (φ s) r v = (writeReg s r v).map φ := by
  obtain hr | hr := Nat.lt_or_ge r.toNat 8
  · rw [writeReg_of_lt hr, writeReg_of_lt hr, hφ.regs, hφ.set_regs, except_map_ok]
  · rw [writeReg_of_ge hr, writeReg_of_ge hr, except_map_error]

theorem Unread.heapWrite_eq (a : Byte) (v : Imm) :
    heapWrite (φ s) a v = (heapWrite s a v).map φ := by
  obtain ha | ha := Nat.lt_or_ge a.toNat s.cfg.heapCap
  · rw [heapWrite_of_lt ha, heapWrite_of_lt (by rwa [hφ.cfg]), hφ.heap, hφ.set_heap, except_map_ok]
  · rw [heapWrite_of_ge ha, heapWrite_of_ge (by rwa [hφ.cfg]), except_map_error]

theorem Unread.push_eq (v : Imm) : push (φ s) v = (push s v).map φ := by
  have hroom' : stackHasRoom (φ s).cfg (φ s).stack = stackHasRoom s.cfg s.stack := by
    rw [hφ.cfg, hφ.stack]
  cases hroom : stackHasRoom s.cfg s.stack with
  | true => rw [push_of_room hroom, push_of_room (hroom'.trans hroom), hφ.stack, hφ.set_stack,
      except_map_ok]
  | false => rw [push_of_full hroom, push_of_full (hroom'.trans hroom), except_map_error]

theorem Unread.pop_eq : pop (φ s) = (pop s).map fun x => (x.1, φ x.2) := by
  obtain hs | ⟨below, v, hs⟩ := List.eq_nil_or_concat s.stack
  · rw [pop_empty hs, pop_empty ((hφ.stack s).trans hs), except_map_error]
  · rw [List.concat_eq_append] at hs
    rw [pop_concat hs, pop_concat ((hφ.stack s).trans hs), hφ.set_stack, except_map_ok]

theorem Unread.aluStep_eq (kinds : Kind → Bool) (apply : Imm → Imm → Except Cause Imm) (v w : Imm) :
    aluStep (φ s) kinds apply v w = (aluStep s kinds apply v w).map φ := by
  unfold aluStep
  split
  · rfl
  · split
    · rfl
    · simp only [hφ.push_eq, map_bind]

theorem Unread.aluRR_eq (kinds : Kind → Bool) (apply : Imm → Imm → Except Cause Imm)
    (r1 r2 : Byte) : aluRR (φ s) kinds apply r1 r2 = (aluRR s kinds apply r1 r2).map φ := by
  simp only [aluRR, hφ.readReg_eq, hφ.aluStep_eq, map_bind]

theorem Unread.aluRI_eq (kinds : Kind → Bool) (apply : Imm → Imm → Except Cause Imm)
    (r : Byte) (imm : Imm) : aluRI (φ s) kinds apply r imm = (aluRI s kinds apply r imm).map φ := by
  simp only [aluRI, hφ.readReg_eq, hφ.aluStep_eq, map_bind]

theorem Unread.conclude_eq {i : Instr} {r r' : Except Cause State} (h : r' = r.map φ) :
    conclude i (φ s) r' = mapNext φ (conclude i s r) := by
  subst h
  cases r with
  | ok t => rfl
  | error c => simp only [except_map_error, conclude_error, hφ.fi, mapNext]

/-- An instruction that does not write `ip`, emit or halt does the same after the change. -/
theorem Unread.exec_eq {i : Instr} (hip : i.writesIp = false) (hemit : i.emits = false)
    (hhalt : i ≠ .halt) : exec i (φ s) = mapNext φ (exec i s) := by
  cases i with
  | nop => rfl
  | mov r v => exact hφ.conclude_eq s (hφ.writeReg_eq s r v)
  | movr d r => exact hφ.conclude_eq s (by simp only [hφ.readReg_eq, hφ.writeReg_eq, map_bind])
  | vloadr r a => exact hφ.conclude_eq s (by simp only [hφ.heapRead_eq, hφ.writeReg_eq, map_bind])
  | vstore a v => exact hφ.conclude_eq s (hφ.heapWrite_eq s a v)
  | vstorer a r => exact hφ.conclude_eq s (by simp only [hφ.readReg_eq, hφ.heapWrite_eq, map_bind])
  | cmp r1 r2 =>
    exact hφ.conclude_eq s (by simp only [hφ.readReg_eq, hφ.set_flags, map_bind, except_map_ok])
  | vpush v => exact hφ.conclude_eq s (hφ.push_eq s v)
  | vload a => exact hφ.conclude_eq s (by simp only [hφ.heapRead_eq, hφ.push_eq, map_bind])
  | vpushr r => exact hφ.conclude_eq s (by simp only [hφ.readReg_eq, hφ.push_eq, map_bind])
  | vpop r =>
    exact hφ.conclude_eq s (by simp only [hφ.pop_eq, hφ.writeReg_eq, map_bind, bind_map])
  | add r1 r2 | sub r1 r2 | mul r1 r2 | div r1 r2 | and r1 r2 | or r1 r2 | xor r1 r2 =>
    exact hφ.conclude_eq s (by simp only [hφ.cfg, hφ.aluRR_eq])
  | shr r v | shl r v => exact hφ.conclude_eq s (by simp only [hφ.cfg, hφ.aluRI_eq])
  | printr r | printv a => cases hemit
  | halt => exact absurd rfl hhalt
  | jmp r | je r | jne r | jg r | jl r | call r | ret => cases hip

/-- The instructions that emit do the same after a change that commutes with an event. -/
theorem Unread.exec_eq_of_emits (he : ∀ s e, emit (φ s) e = φ (emit s e)) {i : Instr}
    (hemit : i.emits = true) : exec i (φ s) = mapNext φ (exec i s) := by
  cases i with
  | printr r =>
    exact hφ.conclude_eq s (by simp only [hφ.readReg_eq, he, map_bind, except_map_ok])
  | printv a =>
    exact hφ.conclude_eq s (by simp only [hφ.heapRead_eq, he, map_bind, except_map_ok])
  | _ => cases hemit

end Unread

section UnreadByJumps

variable {φ : State → State} (hφ : UnreadByJumps φ) (s : State)
include hφ

theorem UnreadByJumps.jumpReg_eq (r : Byte) :
    jumpReg (φ s) r = (jumpReg s r).map φ := by
  have hto (v : Imm) : jumpTo (φ s) v = (jumpTo s v).map φ := by
    unfold jumpTo
    rw [hφ.cfg]
    cases jumpTarget s.cfg v with
    | none => rfl
    | some x => simp only [hφ.set_ip, except_map_ok]
  simp only [jumpReg, hφ.readReg_eq, hto, map_bind]

theorem UnreadByJumps.jumpIf_eq (taken : Bool) (r : Byte) :
    jumpIf (φ s) taken r = (jumpIf s taken r).map φ := by
  cases taken with
  | false => rfl
  | true => exact hφ.jumpReg_eq s r

/-- Every control transfer does the same after a change that leaves `ip` alone. -/
theorem UnreadByJumps.exec_eq_of_writesIp {i : Instr}
    (hip : i.writesIp = true) : exec i (φ s) = mapNext φ (exec i s) := by
  cases i with
  | jmp r => exact hφ.conclude_eq s (hφ.jumpReg_eq s r)
  | je r | jne r =>
    exact hφ.conclude_eq s (by simp only [takenJe, takenJne, hφ.flagEq, hφ.jumpIf_eq])
  | jg r | jl r =>
    exact hφ.conclude_eq s (by
      simp only [takenJg, takenJl, hφ.flagEq, hφ.flagGt, hφ.jumpIf_eq])
  | call r =>
    exact hφ.conclude_eq s (by
      simp only [returnAddress, hφ.ip, hφ.push_eq, hφ.jumpReg_eq, map_bind, bind_map])
  | ret =>
    refine hφ.conclude_eq s ?_
    simp only [hφ.pop_eq, map_bind, bind_map, hφ.cfg]
    congr 1
    funext x
    cases jumpTarget s.cfg x.1 with
    | none => rfl
    | some y => simp only [hφ.set_ip, except_map_ok]
  | _ => cases hip

end UnreadByJumps

section NeverRead

variable {i : Instr} {s : State}

/-- Agreement of the two answers, spelled out: the next states correspond, the faults are the same. -/
theorem agree_of_eq_mapNext {φ : State → State} {r r' : Result} (h : r' = mapNext φ r) :
    (∀ t, r = .next t → r' = .next (φ t)) ∧ (∀ f, r = .fault f → r' = .fault f) := by
  constructor
  · intro t ht
    rw [h, ht, mapNext]
  · intro f hf
    rw [h, hf, mapNext]

theorem exec_setRunning (b : Bool) (hhalt : i ≠ .halt) :
    exec i (setRunning s b) = mapNext (fun t => setRunning t b) (exec i s) := by
  have hφ := unreadByJumps_setRunning b
  cases hip : i.writesIp with
  | true => exact hφ.exec_eq_of_writesIp s hip
  | false =>
    cases hemit : i.emits with
    | true => exact hφ.exec_eq_of_emits s (fun _ _ => rfl) hemit
    | false => exact hφ.exec_eq s hip hemit hhalt

theorem exec_setIp (x : Nat) (hip : i.writesIp = false) :
    exec i (setIp s x) = mapNext (fun t => setIp t x) (exec i s) := by
  have hφ := unread_setIp x
  cases hemit : i.emits with
  | true => exact hφ.exec_eq_of_emits s (fun _ _ => rfl) hemit
  | false =>
    by_cases hhalt : i = .halt
    · subst hhalt
      rfl
    · exact hφ.exec_eq s hip hemit hhalt

/-- A jump on a register overwrites `ip`, whatever it was. -/
theorem jumpReg_setIp (s : State) (x : Nat) (r : Byte) : jumpReg (setIp s x) r = jumpReg s r := by
  have hto (v : Imm) : jumpTo (setIp s x) v = jumpTo s v := rfl
  simp only [jumpReg, (unread_setIp x).readReg_eq, hto]

/-- RET overwrites `ip`, whatever it was. -/
theorem exec_ret_setIp (s : State) (x : Nat) : exec .ret (setIp s x) = exec .ret s := by
  have hφ := unread_setIp x
  show conclude _ _ _ = conclude _ _ _
  simp only [hφ.pop_eq, bind_map]
  rfl

/-- A control transfer other than CALL writes the same target whatever `ip` was, or leaves it. -/
theorem exec_setIp_of_writesIp (x : Nat) (hcall : ∀ r, i ≠ .call r) (hip : i.writesIp = true) :
    exec i (setIp s x) = exec i s ∨
      exec i (setIp s x) = mapNext (fun t => setIp t x) (exec i s) := by
  have hjump (r : Byte) :
      conclude i (setIp s x) (jumpReg (setIp s x) r) = conclude i s (jumpReg s r) := by
    rw [jumpReg_setIp]
    rfl
  have hif (taken : Bool) (r : Byte) :
      conclude i (setIp s x) (jumpIf (setIp s x) taken r) = conclude i s (jumpIf s taken r) ∨
        conclude i (setIp s x) (jumpIf (setIp s x) taken r) =
          mapNext (fun t => setIp t x) (conclude i s (jumpIf s taken r)) := by
    cases taken with
    | false => exact .inr rfl
    | true => exact .inl (hjump r)
  cases i with
  | jmp r => exact .inl (hjump r)
  | je r => exact hif (takenJe s) r
  | jne r => exact hif (takenJne s) r
  | jg r => exact hif (takenJg s) r
  | jl r => exact hif (takenJl s) r
  | ret => exact .inl (exec_ret_setIp s x)
  | call r => exact absurd rfl (hcall r)
  | _ => cases hip

end NeverRead

/-! ### The obligations of the family: the invariant, the frames, what is never read, reset -/

/-- Settles O16, by the four ways a step can answer a next state. -/
theorem stepKeepsInvariant : Obligations.StepKeepsInvariant := by
  unfold Obligations.StepKeepsInvariant
  intro s t hs h
  obtain ⟨hst, rfl⟩ | ⟨hst, -, rfl⟩ | ⟨hst, i, u, -, hu, rfl⟩ | ⟨-, i, f, hi, hf, rfl⟩ :=
    step_eq_next h
  · exact startRun_keeps_inv hs (by simp [hst])
  · exact startRun_keeps_inv hs (by simp [hst])
  · exact advance_keeps_inv hs hst (exec_effect hu)
  · exact recordFault_inv (recordMatches_of_exec_fault hi hf)

/-- Settles O18, by the four ways a step can answer a next state. -/
theorem stepKeepsCodeAndExtendsObs : Obligations.StepKeepsCodeAndExtendsObs := by
  unfold Obligations.StepKeepsCodeAndExtendsObs
  intro s t h
  obtain ⟨-, rfl⟩ | ⟨-, -, rfl⟩ | ⟨-, i, u, -, hu, rfl⟩ | ⟨-, i, f, -, -, rfl⟩ := step_eq_next h
  · exact ⟨rfl, rfl, rfl, List.prefix_rfl⟩
  · exact ⟨rfl, rfl, rfl, List.prefix_rfl⟩
  · have heff := exec_effect hu
    obtain ⟨hcfg, hprog, hcode, -⟩ := heff.sequencer_eq
    exact ⟨hcode, hprog, hcfg, heff.obs_prefix⟩
  · exact ⟨rfl, rfl, rfl, List.prefix_rfl⟩

/-- Settles O52: only the two effects that write a register change one, and that is the destination. -/
theorem registersChangeOnlyAtDestination : Obligations.RegistersChangeOnlyAtDestination := by
  unfold Obligations.RegistersChangeOnlyAtDestination
  intro i s t h n hn hdest
  exact (exec_effect h).reg_eq hn hdest

/-- Settles O53, by the frame of each effect. -/
theorem controlStateChangesOnlyByItsInstructions :
    Obligations.ControlStateChangesOnlyByItsInstructions := by
  unfold Obligations.ControlStateChangesOnlyByItsInstructions
  intro i s t h
  have heff := exec_effect h
  exact ⟨heff.flags_eq, heff.running_eq, heff.ip_eq, heff.obs_eq, heff.draws_eq⟩

/-- Settles O54; a stored address is a byte, so it is never 256 or above. -/
theorem heapChangesOnlyAtStoredCell : Obligations.HeapChangesOnlyAtStoredCell := by
  unfold Obligations.HeapChangesOnlyAtStoredCell
  intro i s t hwf h a
  have heff := exec_effect h
  exact ⟨heff.read_heap_eq hwf,
    fun ha => heff.read_heap_eq hwf fun b _ => (b.isLt.trans_le ha).ne⟩

/-- Settles O55, by the three things an instruction can do to the stack. -/
theorem stackChangesOnlyAtTop : Obligations.StackChangesOnlyAtTop := by
  unfold Obligations.StackChangesOnlyAtTop
  intro i s t h
  obtain ⟨⟨hpush, hpop⟩, hs⟩ | ⟨hpush, hpop, hs⟩ | ⟨hpop, hpush, hs⟩ := (exec_effect h).stack_cases
  · simp [hpush, hpop, hs]
  · simpa [hpush, hpop] using hs
  · simpa [hpush, hpop] using hs

/-- Settles O10: a buffer that decodes gives the fresh state, whose heap lists no cell. -/
theorem constructGivesResetValues : Obligations.ConstructGivesResetValues := by
  unfold Obligations.ConstructGivesResetValues
  refine ⟨fun cfg prog code h => ⟨[], ?_, Memory.read_nil⟩, reset_eq_construct⟩
  rw [construct_of_done h]
  rfl

/-- Settles O14, by the answers of a machine whose run is over. -/
theorem terminalMachineHasNoStep : Obligations.TerminalMachineHasNoStep := by
  unfold Obligations.TerminalMachineHasNoStep
  exact fun s => ⟨step_of_done, fun f => step_of_faulted⟩

/-- Settles O15: State.reset is itself a construct. -/
theorem invariantHoldsAtReset : Obligations.InvariantHoldsAtReset := by
  unfold Obligations.InvariantHoldsAtReset
  exact ⟨reset_eq_construct ▸ construct_inv Config.atReset [], construct_inv⟩

/-- Settles O57: an instruction other than HALT commutes with a write to running, HALT overwrites it. -/
theorem runningIsNeverRead : Obligations.RunningIsNeverRead := by
  unfold Obligations.RunningIsNeverRead
  intro i s b
  by_cases hhalt : i = .halt
  · subst hhalt
    constructor
    · intro t ht
      cases ht
      rfl
    · intro f hf
      cases hf
  · simp only [hhalt, if_false]
    exact agree_of_eq_mapNext (exec_setRunning b hhalt)

/-- Settles O59: an instruction that does not write `ip` commutes with a write to it, a control transfer
other than CALL overwrites it or, untaken, leaves it. -/
theorem ipIsReadOnlyByCall : Obligations.IpIsReadOnlyByCall := by
  unfold Obligations.IpIsReadOnlyByCall
  intro i s x hcall
  have hcases : exec i (setIp s x) = exec i s ∨
      exec i (setIp s x) = mapNext (fun t => setIp t x) (exec i s) := by
    cases hip : i.writesIp with
    | true => exact exec_setIp_of_writesIp x hcall hip
    | false => exact .inr (exec_setIp x hip)
  obtain hsame | hmap := hcases
  · exact ⟨fun t ht => .inr (hsame.trans ht), fun f hf => hsame.trans hf⟩
  · obtain ⟨hnext, hfault⟩ := agree_of_eq_mapNext hmap
    exact ⟨fun t ht => .inl (hnext t ht), hfault⟩

end Sys2Proof.Machine

/-! ### The heap as canonical data (20_memory.md R51, R53, R58) -/

namespace Sys2Proof.Machine

/-- When a memory with a first cell is canonical from `lo` on. -/
theorem Memory.wfFrom_cons {lo a : Nat} {v : Imm} {m : Memory} :
    Memory.wfFrom lo ((a, v) :: m) = true ↔
      lo ≤ a ∧ v ≠ blankCell ∧ Memory.wfFrom (a + 1) m = true := by
  simp only [Memory.wfFrom, Bool.and_eq_true, decide_eq_true_eq, and_assoc]

@[simp] theorem Memory.read_cons_self (a : Nat) (v : Imm) (m : Memory) :
    Memory.read ((a, v) :: m) a = v := by
  rw [Memory.read_cons, if_pos rfl]

/-- Behind a first cell of the same address and content, canonical memories that read alike have tails
that read alike: at that address both tails are blank. -/
theorem Memory.read_tail_eq {a : Nat} {v : Imm} {m m' : Memory}
    (hm : Memory.wfFrom (a + 1) m = true) (hm' : Memory.wfFrom (a + 1) m' = true)
    (h : ∀ c, Memory.read ((a, v) :: m) c = Memory.read ((a, v) :: m') c) (c : Nat) :
    Memory.read m c = Memory.read m' c := by
  by_cases hc : c = a
  · rw [hc, Memory.read_below hm (Nat.lt_succ_self a), Memory.read_below hm' (Nat.lt_succ_self a)]
  · simpa only [Memory.read_cons, if_neg hc] using h c

/-- No address below the first cell of a canonical memory reads a value that is not blank. -/
theorem Memory.head_le_of_read_ne_blank {lo a b : Nat} {w : Imm} {m : Memory}
    (hm : Memory.wfFrom lo ((b, w) :: m) = true) (h : Memory.read ((b, w) :: m) a ≠ blankCell) :
    b ≤ a := by
  obtain ⟨-, hw, htail⟩ := Memory.wfFrom_cons.mp hm
  by_contra hlt
  exact h (Memory.read_below (Memory.wfFrom_cons.mpr ⟨le_rfl, hw, htail⟩) (not_le.mp hlt))

/-- A canonical memory is determined by its reads: the address of its first cell is the least one that
does not read blank. -/
theorem Memory.eq_of_read_eq {lo : Nat} {m m' : Memory} (hm : Memory.wfFrom lo m = true)
    (hm' : Memory.wfFrom lo m' = true) (h : ∀ a, Memory.read m a = Memory.read m' a) : m = m' := by
  induction m generalizing lo m' with
  | nil =>
    cases m' with
    | nil => rfl
    | cons c m' =>
      obtain ⟨b, w⟩ := c
      obtain ⟨-, hw, -⟩ := Memory.wfFrom_cons.mp hm'
      have hblank : blankCell = w := by simpa using h b
      exact absurd hblank.symm hw
  | cons c m ih =>
    obtain ⟨a, v⟩ := c
    obtain ⟨-, hv, htail⟩ := Memory.wfFrom_cons.mp hm
    have hva : v = Memory.read m' a := by simpa using h a
    cases m' with
    | nil => exact absurd hva hv
    | cons c m' =>
      obtain ⟨b, w⟩ := c
      obtain ⟨-, hw, htail'⟩ := Memory.wfFrom_cons.mp hm'
      have hwb : Memory.read ((a, v) :: m) b = w := by simpa using h b
      obtain rfl : a = b := le_antisymm
        (Memory.head_le_of_read_ne_blank hm (hwb ▸ hw))
        (Memory.head_le_of_read_ne_blank hm' (hva ▸ hv))
      obtain rfl : v = w := by simpa using hwb
      rw [ih htail htail' (Memory.read_tail_eq htail htail' h)]

/-- Settles O34: canonical heaps are determined by their reads. -/
theorem heapDataIsCanonical : Obligations.HeapDataIsCanonical := by
  unfold Obligations.HeapDataIsCanonical
  exact fun m m' hm hm' h => Memory.eq_of_read_eq hm hm' h

end Sys2Proof.Machine

/-! ### The decoder and the encoder (30_encoding.md) -/

namespace Sys2Proof

/-! #### Tagged immediates (R75 to R77) -/

/-- The bytes of a spelling give their immediate, and nothing behind them is read. -/
theorem takeImm_of_spells {bytes : List Byte} {v : Imm} (h : SpellsImm bytes v) (start pos : Nat)
    (rest : List Byte) :
    takeImm start ⟨pos, bytes ++ rest⟩ = .done (v, ⟨pos + bytes.length, rest⟩) := by
  obtain ⟨tag, payload, rfl, hlen, rfl⟩ := h
  have htake := takeBytes_append start (pos + 1) payload rest
  rw [hlen] at htake
  simp only [takeImm, List.cons_append, takeByte_cons, andThen_done, htake, List.length_cons, hlen]
  congr 3
  omega

/-- The encoder's spelling of an immediate is one of its spellings. -/
theorem spellsImm_encodeImm (v : Imm) : SpellsImm (encodeImm v) v := by
  refine ⟨_, _, encodeImm_eq v, ?_, ?_⟩
  · rw [leBytes_length, kindOfTag_tagOfKind]
  · rw [kindOfTag_tagOfKind, leNat_leBytes, Nat.mod_eq_of_lt (pat_lt v), ofPat_pat]

/-- A tag with fewer bytes behind it than its payload has: the payload is what is wanted. -/
theorem takeImm_of_short {tag : Byte} {rest : List Byte}
    (h : rest.length < payloadBytes (kindOfTag tag)) (start pos : Nat) :
    takeImm start ⟨pos, tag :: rest⟩ = .truncated start (pos + 1) (payloadBytes (kindOfTag tag)) := by
  simp only [takeImm, takeByte_cons, andThen_done, takeBytes, if_neg (not_le.mpr h),
    andThen_truncated]

/-- Behind a tag the payload is there, and the buffer starts with a spelling, or it is cut short. -/
theorem spellsImm_or_short (tag : Byte) (bs : List Byte) :
    (∃ bytes v rest, tag :: bs = bytes ++ rest ∧ SpellsImm bytes v) ∨
      bs.length < payloadBytes (kindOfTag tag) := by
  obtain hshort | hthere := lt_or_ge bs.length (payloadBytes (kindOfTag tag))
  · exact .inr hshort
  · refine .inl ⟨tag :: bs.take (payloadBytes (kindOfTag tag)), _,
      bs.drop (payloadBytes (kindOfTag tag)), ?_, tag, _, rfl, List.length_take_of_le hthere, rfl⟩
    rw [List.cons_append, List.take_append_drop]

/-- Every tag of 10 or more is None (R77). -/
theorem kindOfTag_of_ge {tag : Byte} (h : 10 ≤ tag.toNat) : kindOfTag tag = .none := by
  obtain ⟨k, hk⟩ := Nat.exists_eq_add_of_le' h
  rw [kindOfTag, hk]
  rfl

/-- Little-endian assembly puts each byte behind the more significant ones (R54). -/
theorem ofNat_leNat_cons (w : Nat) (b : Byte) (bs : List Byte) :
    BitVec.ofNat (w + 8) (leNat (b :: bs)) = BitVec.ofNat w (leNat bs) ++ b := by
  apply BitVec.eq_of_toNat_eq
  rw [BitVec.toNat_append, Nat.shiftLeft_eq, Nat.mul_comm, ← Nat.two_pow_add_eq_or_of_lt b.isLt]
  simp only [leNat, BitVec.toNat_ofNat]
  have hlow : (b.toNat + 256 * leNat bs) % 2 ^ 8 = b.toNat := by
    have hb := b.isLt
    omega
  have hhigh : (b.toNat + 256 * leNat bs) / 2 ^ 8 = leNat bs := by
    have hb := b.isLt
    omega
  rw [Nat.add_comm w 8, Nat.pow_add, Nat.mod_mul, hlow, hhigh, Nat.add_comm]

theorem ofNat_leNat_one (b : Byte) : BitVec.ofNat 8 (leNat [b]) = b := by
  simp [leNat]

theorem ofNat_leNat_two (b0 b1 : Byte) : BitVec.ofNat 16 (leNat [b0, b1]) = b1 ++ b0 := by
  rw [ofNat_leNat_cons 8, ofNat_leNat_one]

theorem ofNat_leNat_four (b0 b1 b2 b3 : Byte) :
    BitVec.ofNat 32 (leNat [b0, b1, b2, b3]) = b3 ++ b2 ++ b1 ++ b0 := by
  rw [ofNat_leNat_cons 24, ofNat_leNat_cons 16, ofNat_leNat_two]

theorem ofNat_leNat_eight (b0 b1 b2 b3 b4 b5 b6 b7 : Byte) :
    BitVec.ofNat 64 (leNat [b0, b1, b2, b3, b4, b5, b6, b7]) =
      b7 ++ b6 ++ b5 ++ b4 ++ b3 ++ b2 ++ b1 ++ b0 := by
  rw [ofNat_leNat_cons 56, ofNat_leNat_cons 48, ofNat_leNat_cons 40, ofNat_leNat_cons 32,
    ofNat_leNat_four]

/-! #### One instruction: its bytes are there (R72, R80, R81) -/

/-- The operand bytes give the instruction wherever they stand, and nothing behind them is read. -/
def Format.Takes (fmt : Format) (operands : List Byte) (i : Instr) : Prop :=
  ∀ (start pos : Nat) (rest : List Byte),
    takeOperands start ⟨pos, operands ++ rest⟩ fmt = .done (i, ⟨pos + operands.length, rest⟩)

theorem takes_n (i : Instr) : (Format.n i).Takes [] i := fun _ _ _ => rfl

theorem takes_r (op : Byte → Instr) (a : Byte) : (Format.r op).Takes [a] (op a) := fun _ _ _ => rfl

theorem takes_a (op : Byte → Instr) (a : Byte) : (Format.a op).Takes [a] (op a) := fun _ _ _ => rfl

theorem takes_rr (op : Byte → Byte → Instr) (a b : Byte) : (Format.rr op).Takes [a, b] (op a b) :=
  fun _ _ _ => rfl

theorem takes_ar (op : Byte → Byte → Instr) (a b : Byte) : (Format.ar op).Takes [a, b] (op a b) :=
  fun _ _ _ => rfl

theorem takes_ra (op : Byte → Byte → Instr) (a b : Byte) : (Format.ra op).Takes [a, b] (op a b) :=
  fun _ _ _ => rfl

theorem takes_ri (op : Byte → Imm → Instr) (a : Byte) {bytes : List Byte} {v : Imm}
    (h : SpellsImm bytes v) : (Format.ri op).Takes (a :: bytes) (op a v) := by
  intro start pos rest
  simp only [takeOperands, takeByteImm, List.cons_append, takeByte_cons, andThen_done,
    takeImm_of_spells h, List.length_cons]
  congr 3
  omega

theorem takes_ai (op : Byte → Imm → Instr) (a : Byte) {bytes : List Byte} {v : Imm}
    (h : SpellsImm bytes v) : (Format.ai op).Takes (a :: bytes) (op a v) := takes_ri op a h

theorem takes_i (op : Imm → Instr) {bytes : List Byte} {v : Imm} (h : SpellsImm bytes v) :
    (Format.i op).Takes bytes (op v) := by
  intro start pos rest
  simp only [takeOperands, takeImm_of_spells h, andThen_done]

/-- An opcode byte and operands its format takes are the bytes of the instruction. -/
theorem encodes_of_takes {op : Byte} {operands : List Byte} {i : Instr}
    (h : (formatOf op).Takes operands i) : Encodes (op :: operands) i := by
  intro pos rest
  simp only [decodeInstr, List.cons_append, takeByte_cons, andThen_done, h pos (pos + 1) rest,
    List.length_cons]
  congr 3
  omega

/-- An instruction has at least its opcode byte (R70). -/
theorem Encodes.length_pos {bytes : List Byte} {i : Instr} (h : Encodes bytes i) :
    0 < bytes.length := by
  rw [List.length_pos_iff]
  rintro rfl
  cases h 0 []

/-- The encoder writes the bytes of the instruction (R82). -/
theorem encodes_encode (i : Instr) : Encodes (encode i) i := by
  cases i with
  | nop | ret | halt => exact encodes_of_takes (takes_n _)
  | jmp a | je a | jne a | jg a | jl a | call a | printr a | vpushr a | vpop a =>
    exact encodes_of_takes (takes_r _ a)
  | printv a | vload a => exact encodes_of_takes (takes_a _ a)
  | movr a b | cmp a b | add a b | sub a b | mul a b | div a b | and a b | or a b | xor a b =>
    exact encodes_of_takes (takes_rr _ a b)
  | vstorer a b => exact encodes_of_takes (takes_ar _ a b)
  | vloadr a b => exact encodes_of_takes (takes_ra _ a b)
  | mov a v | shr a v | shl a v => exact encodes_of_takes (takes_ri _ a (spellsImm_encodeImm v))
  | vstore a v => exact encodes_of_takes (takes_ai _ a (spellsImm_encodeImm v))
  | vpush v => exact encodes_of_takes (takes_i _ (spellsImm_encodeImm v))

/-- Every opcode byte of 30 or more is NOP (R81). -/
theorem formatOf_of_ge {op : Byte} (h : 30 ≤ op.toNat) : formatOf op = .n .nop := by
  obtain ⟨k, hk⟩ := Nat.exists_eq_add_of_le' h
  rw [formatOf, hk]
  rfl

/-! #### One instruction: bytes are missing (R97, decision D32) -/

/-- The operands of the format are cut short: `n` bytes are wanted `d` bytes after the opcode byte, and
they are not all there. -/
structure Format.Lacks (fmt : Format) (operands : List Byte) (d n : Nat) : Prop where
  truncates : ∀ start pos, takeOperands start ⟨pos, operands⟩ fmt = .truncated start (pos + d) n
  within : d ≤ operands.length
  short : operands.length < d + n
  wanted : (operands.length < fmt.byteOperands ∧ d = operands.length ∧ n = 1) ∨
    ∃ tag, fmt.hasImmediate = true ∧ operands[fmt.byteOperands - 1]? = some tag ∧
      d = fmt.byteOperands ∧ n = payloadBytes (kindOfTag tag)

/-- The bytes end before a one-byte operand. -/
theorem lacks_byte {fmt : Format} {operands : List Byte} (h : operands.length < fmt.byteOperands)
    (ht : ∀ start pos,
      takeOperands start ⟨pos, operands⟩ fmt = .truncated start (pos + operands.length) 1) :
    fmt.Lacks operands operands.length 1 :=
  ⟨ht, le_rfl, Nat.lt_succ_self _, .inl ⟨h, rfl, rfl⟩⟩

/-- The bytes end in the payload behind the tag. -/
theorem lacks_payload {fmt : Format} {operands bs : List Byte} {tag : Byte}
    (hshort : bs.length < payloadBytes (kindOfTag tag)) (himm : fmt.hasImmediate = true)
    (htag : operands[fmt.byteOperands - 1]? = some tag)
    (hlen : operands.length = bs.length + fmt.byteOperands)
    (ht : ∀ start pos, takeOperands start ⟨pos, operands⟩ fmt =
      .truncated start (pos + fmt.byteOperands) (payloadBytes (kindOfTag tag))) :
    fmt.Lacks operands fmt.byteOperands (payloadBytes (kindOfTag tag)) :=
  ⟨ht, by omega, by omega, .inr ⟨tag, himm, htag, rfl, rfl⟩⟩

/-- The operands that the format takes are in front, or some of their bytes are missing. -/
theorem takes_or_lacks (fmt : Format) (operands : List Byte) :
    (∃ taken rest i, operands = taken ++ rest ∧ fmt.Takes taken i) ∨
      ∃ d n, fmt.Lacks operands d n := by
  cases fmt with
  | n i => exact .inl ⟨[], operands, i, rfl, takes_n i⟩
  | r op | a op =>
    cases operands with
    | nil => exact .inr ⟨_, _, lacks_byte Nat.one_pos fun _ _ => rfl⟩
    | cons a rest => exact .inl ⟨[a], rest, op a, rfl, fun _ _ _ => rfl⟩
  | rr op | ar op | ra op =>
    match operands with
    | [] => exact .inr ⟨_, _, lacks_byte Nat.two_pos fun _ _ => rfl⟩
    | [_] => exact .inr ⟨_, _, lacks_byte Nat.one_lt_two fun _ _ => rfl⟩
    | a :: b :: rest => exact .inl ⟨[a, b], rest, op a b, rfl, fun _ _ _ => rfl⟩
  | ri op | ai op =>
    match operands with
    | [] => exact .inr ⟨_, _, lacks_byte Nat.two_pos fun _ _ => rfl⟩
    | [_] => exact .inr ⟨_, _, lacks_byte Nat.one_lt_two fun _ _ => rfl⟩
    | a :: tag :: bs =>
      obtain ⟨bytes, v, rest, heq, hspell⟩ | hshort := spellsImm_or_short tag bs
      · exact .inl ⟨a :: bytes, rest, op a v, congrArg (a :: ·) heq, takes_ri op a hspell⟩
      · refine .inr ⟨_, _, lacks_payload hshort rfl rfl rfl fun start pos => ?_⟩
        simp only [takeOperands, takeByteImm, takeByte_cons, andThen_done, takeImm_of_short hshort,
          andThen_truncated, Format.byteOperands]
  | i op =>
    cases operands with
    | nil => exact .inr ⟨_, _, lacks_byte Nat.one_pos fun _ _ => rfl⟩
    | cons tag bs =>
      obtain ⟨bytes, v, rest, heq, hspell⟩ | hshort := spellsImm_or_short tag bs
      · exact .inl ⟨bytes, rest, op v, heq, takes_i op hspell⟩
      · refine .inr ⟨_, _, lacks_payload hshort rfl rfl rfl fun start pos => ?_⟩
        simp only [takeOperands, takeImm_of_short hshort, andThen_truncated, Format.byteOperands]

/-- The instruction of a truncated opcode truncates, and its record names its own place. -/
theorem decodeInstr_of_lacks {op : Byte} {operands : List Byte} {d n : Nat}
    (h : (formatOf op).Lacks operands d n) (pos : Nat) :
    decodeInstr ⟨pos, op :: operands⟩ = .truncated pos (pos + 1 + d) n := by
  simp only [decodeInstr, takeByte_cons, andThen_done, h.truncates]

/-! #### Buffers (R95, R97, R98) -/

/-- The buffer is the bytes of the instructions of `code`, end to end. -/
inductive Decodes : List Byte → List Instr → Prop
  | nil : Decodes [] []
  | cons {bytes rest : List Byte} {i : Instr} {code : List Instr} :
      Encodes bytes i → Decodes rest code → Decodes (bytes ++ rest) (i :: code)

theorem Decodes.single {bytes : List Byte} {i : Instr} (h : Encodes bytes i) :
    Decodes bytes [i] := by
  simpa only [List.append_nil] using Decodes.cons h .nil

theorem Decodes.append {first second : List Byte} {code more : List Instr}
    (h : Decodes first code) (h' : Decodes second more) :
    Decodes (first ++ second) (code ++ more) := by
  induction h with
  | nil => exact h'
  | cons hi _ ih =>
    rw [List.append_assoc]
    exact .cons hi ih

theorem Decodes.length_le {prog : List Byte} {code : List Instr} (h : Decodes prog code) :
    code.length ≤ prog.length := by
  induction h with
  | nil => exact le_rfl
  | cons hi _ ih =>
    have hpos := hi.length_pos
    rw [List.length_append, List.length_cons]
    omega

/-- The program's bytes are those of its instructions (R82). -/
theorem decodes_encodeProgram (code : List Instr) : Decodes (encodeProgram code) code := by
  induction code with
  | nil => exact .nil
  | cons i code ih => exact .cons (encodes_encode i) ih

theorem decodeLoop_nil (fuel pos : Nat) : decodeLoop fuel ⟨pos, []⟩ = .done [] := by
  cases fuel <;> rfl

/-- One turn of the loop over the bytes of an instruction. -/
theorem decodeLoop_of_encodes {bytes : List Byte} {i : Instr} (h : Encodes bytes i)
    (fuel pos : Nat) (rest : List Byte) :
    decodeLoop (fuel + 1) ⟨pos, bytes ++ rest⟩ =
      (decodeLoop fuel ⟨pos + bytes.length, rest⟩).andThen fun code => .done (i :: code) := by
  have hpos := h.length_pos
  have hinstr := h pos rest
  cases bytes with
  | nil => cases hpos
  | cons b bs =>
    rw [List.cons_append] at hinstr ⊢
    simp only [decodeLoop, hinstr, andThen_done]

/-- The loop runs over the bytes of `code` in as many turns as `code` has instructions, and goes on with
the rest. -/
theorem Decodes.decodeLoop_append {first : List Byte} {code : List Instr} (h : Decodes first code)
    (fuel pos : Nat) (rest : List Byte) :
    decodeLoop (code.length + fuel) ⟨pos, first ++ rest⟩ =
      (decodeLoop fuel ⟨pos + first.length, rest⟩).andThen fun more => .done (code ++ more) := by
  induction h generalizing pos with
  | nil =>
    simp only [List.length_nil, List.nil_append, Nat.zero_add, Nat.add_zero]
    cases decodeLoop fuel ⟨pos, rest⟩ <;> rfl
  | @cons bytes tail i code hi _ ih =>
    rw [List.length_cons, Nat.add_right_comm, List.append_assoc,
      decodeLoop_of_encodes hi, ih, List.length_append, Nat.add_assoc]
    cases decodeLoop fuel ⟨pos + (bytes.length + tail.length), rest⟩ <;> rfl

/-- `decode` runs over the bytes of `code` and goes on with the rest, with a turn left for each of its
bytes: no instruction is shorter than one byte (R98). -/
theorem Decodes.decode_append {first : List Byte} {code : List Instr} (h : Decodes first code)
    (rest : List Byte) :
    ∃ fuel, rest.length ≤ fuel ∧ decode (first ++ rest) =
      (decodeLoop fuel ⟨first.length, rest⟩).andThen fun more => .done (code ++ more) := by
  have hle := h.length_le
  refine ⟨first.length - code.length + rest.length, Nat.le_add_left _ _, ?_⟩
  have hloop := h.decodeLoop_append (first.length - code.length + rest.length) 0 rest
  rw [← Nat.add_assoc, Nat.add_sub_cancel' hle, Nat.zero_add, ← List.length_append] at hloop
  exact hloop

/-- The bytes of a program decode to it. -/
theorem Decodes.decode_eq {prog : List Byte} {code : List Instr} (h : Decodes prog code) :
    decode prog = .done code := by
  obtain ⟨fuel, -, heq⟩ := h.decode_append []
  simpa only [List.append_nil, decodeLoop_nil, andThen_done] using heq

/-- Bytes of a program, then a truncated instruction: the record is that of the instruction. -/
theorem Decodes.decode_truncated {before operands : List Byte} {code : List Instr} {op : Byte}
    {d n : Nat} (h : Decodes before code) (hl : (formatOf op).Lacks operands d n) :
    decode (before ++ op :: operands) =
      .truncated before.length (before.length + 1 + d) n := by
  obtain ⟨fuel, hfuel, heq⟩ := h.decode_append (op :: operands)
  cases fuel with
  | zero => cases hfuel
  | succ fuel =>
    rw [heq]
    simp only [decodeLoop, decodeInstr_of_lacks hl, andThen_truncated]

/-- Every buffer is the bytes of a program, or such bytes and then a truncated instruction. -/
theorem decodes_or_lacks (prog : List Byte) :
    (∃ code, Decodes prog code) ∨
      ∃ before code op operands d n, prog = before ++ op :: operands ∧ Decodes before code ∧
        (formatOf op).Lacks operands d n := by
  match prog with
  | [] => exact .inl ⟨[], .nil⟩
  | op :: operands =>
    obtain ⟨taken, rest, i, heq, htakes⟩ | ⟨d, n, hlacks⟩ := takes_or_lacks (formatOf op) operands
    · have hi := encodes_of_takes htakes
      obtain ⟨code, hcode⟩ | ⟨before, code, op', operands', d, n, hrest, hbefore, hlacks⟩ :=
        decodes_or_lacks rest
      · exact .inl ⟨i :: code, heq ▸ .cons hi hcode⟩
      · refine .inr ⟨op :: taken ++ before, i :: code, op', operands', d, n, ?_,
          .cons hi hbefore, hlacks⟩
        rw [heq, hrest, List.append_assoc, List.cons_append]
    · exact .inr ⟨[], [], op, operands, d, n, rfl, .nil, hlacks⟩
termination_by prog.length
decreasing_by
  simp only [heq, List.length_cons, List.length_append]
  omega

/-- A buffer decodes to `code` exactly when it is the bytes of its instructions. -/
theorem decode_eq_done_iff {prog : List Byte} {code : List Instr} :
    decode prog = .done code ↔ Decodes prog code := by
  refine ⟨fun h => ?_, Decodes.decode_eq⟩
  obtain ⟨code', hcode⟩ | ⟨_, _, _, _, _, _, rfl, hbefore, hlacks⟩ := decodes_or_lacks prog
  · cases h.symm.trans hcode.decode_eq
    exact hcode
  · cases h.symm.trans (hbefore.decode_truncated hlacks)

/-- A buffer truncates exactly when a truncated instruction stands behind the bytes of a program; the
record names the place of both. -/
theorem decode_eq_truncated_iff {prog : List Byte} {start pos n : Nat} :
    decode prog = .truncated start pos n ↔
      ∃ before code op operands d, prog = before ++ op :: operands ∧ Decodes before code ∧
        (formatOf op).Lacks operands d n ∧ start = before.length ∧ pos = before.length + 1 + d := by
  constructor
  · intro h
    obtain ⟨_, hcode⟩ | ⟨before, code, op, operands, d, _, rfl, hbefore, hlacks⟩ :=
      decodes_or_lacks prog
    · cases h.symm.trans hcode.decode_eq
    · cases h.symm.trans (hbefore.decode_truncated hlacks)
      exact ⟨before, code, op, operands, d, rfl, hbefore, hlacks, rfl, rfl⟩
  · rintro ⟨before, code, op, operands, d, rfl, hbefore, hlacks, rfl, rfl⟩
    exact hbefore.decode_truncated hlacks

/-! #### The obligations of 30_encoding.md -/

/-- Settles O5: the encoding of a program is the bytes of its instructions. -/
theorem decodeEncodedProgram : Obligations.DecodeEncodedProgram := by
  unfold Obligations.DecodeEncodedProgram
  exact fun code => (decodes_encodeProgram code).decode_eq

/-- Settles O2, each opcode by the format it has in the table of R80. -/
theorem opcodeMapDecodes : Obligations.OpcodeMapDecodes := by
  unfold Obligations.OpcodeMapDecodes
  intro a b bytes v h
  exact ⟨encodes_of_takes (takes_n _), encodes_of_takes (takes_ri _ a h),
    encodes_of_takes (takes_rr _ a b), encodes_of_takes (takes_r _ a),
    encodes_of_takes (takes_r _ a), encodes_of_takes (takes_r _ a),
    encodes_of_takes (takes_rr _ a b), encodes_of_takes (takes_r _ a),
    encodes_of_takes (takes_a _ a), encodes_of_takes (takes_ai _ a h),
    encodes_of_takes (takes_a _ a), encodes_of_takes (takes_rr _ a b),
    encodes_of_takes (takes_rr _ a b), encodes_of_takes (takes_rr _ a b),
    encodes_of_takes (takes_rr _ a b), encodes_of_takes (takes_ar _ a b),
    encodes_of_takes (takes_ra _ a b), encodes_of_takes (takes_i _ h),
    encodes_of_takes (takes_r _ a), encodes_of_takes (takes_r _ a),
    encodes_of_takes (takes_r _ a), encodes_of_takes (takes_n _), encodes_of_takes (takes_n _),
    encodes_of_takes (takes_r _ a), encodes_of_takes (takes_r _ a),
    encodes_of_takes (takes_rr _ a b), encodes_of_takes (takes_rr _ a b),
    encodes_of_takes (takes_rr _ a b), encodes_of_takes (takes_ri _ a h),
    encodes_of_takes (takes_ri _ a h)⟩

/-- Settles O6: the bytes of two programs in a row are the bytes of both. -/
theorem decodeOfAppendedBuffer : Obligations.DecodeOfAppendedBuffer := by
  unfold Obligations.DecodeOfAppendedBuffer
  intro first second code hfirst
  have hcode := decode_eq_done_iff.mp hfirst
  constructor
  · intro more hsecond
    exact (hcode.append (decode_eq_done_iff.mp hsecond)).decode_eq
  · intro start pos n hsecond
    obtain ⟨before, more, op, operands, d, rfl, hbefore, hlacks, rfl, rfl⟩ :=
      decode_eq_truncated_iff.mp hsecond
    refine decode_eq_truncated_iff.mpr ⟨first ++ before, code ++ more, op, operands, d,
      (List.append_assoc ..).symm, hcode.append hbefore, hlacks, List.length_append.symm, ?_⟩
    rw [List.length_append]
    omega

/-- Settles O3: an unknown opcode byte is the bytes of NOP, and O6 says what follows it. -/
theorem unknownOpcodeDecodesAsNop : Obligations.UnknownOpcodeDecodesAsNop := by
  unfold Obligations.UnknownOpcodeDecodesAsNop
  intro op hop
  have hnop : Encodes [op] .nop := encodes_of_takes (formatOf_of_ge hop ▸ takes_n _)
  refine ⟨hnop, encodes_of_takes (takes_n _), fun rest => ?_⟩
  obtain ⟨hdone, htrunc⟩ := decodeOfAppendedBuffer [op] rest [.nop] (Decodes.single hnop).decode_eq
  refine ⟨hdone, fun start pos n h => ?_⟩
  rw [Nat.add_comm start, Nat.add_comm pos]
  exact htrunc start pos n h

/-- Settles O4: each written payload spells its value, by the little-endian assembly of its bytes. -/
theorem taggedImmediateDecodes : Obligations.TaggedImmediateDecodes := by
  unfold Obligations.TaggedImmediateDecodes
  intro start pos rest b0 b1 b2 b3 b4 b5 b6 b7
  have two := ofNat_leNat_two b0 b1
  have four := ofNat_leNat_four b0 b1 b2 b3
  have eight := ofNat_leNat_eight b0 b1 b2 b3 b4 b5 b6 b7
  refine ⟨
    takeImm_of_spells ⟨0, [b0], rfl, rfl, congrArg Imm.u8 (ofNat_leNat_one b0)⟩ start pos rest,
    takeImm_of_spells ⟨1, [b0], rfl, rfl, congrArg Imm.i8 (ofNat_leNat_one b0)⟩ start pos rest,
    takeImm_of_spells ⟨2, [b0, b1], rfl, rfl, congrArg Imm.u16 two⟩ start pos rest,
    takeImm_of_spells ⟨3, [b0, b1], rfl, rfl, congrArg Imm.i16 two⟩ start pos rest,
    takeImm_of_spells ⟨4, [b0, b1, b2, b3], rfl, rfl, congrArg Imm.u32 four⟩ start pos rest,
    takeImm_of_spells ⟨5, [b0, b1, b2, b3], rfl, rfl, congrArg Imm.i32 four⟩ start pos rest,
    takeImm_of_spells ⟨6, [b0, b1, b2, b3, b4, b5, b6, b7], rfl, rfl, congrArg Imm.u64 eight⟩
      start pos rest,
    takeImm_of_spells ⟨7, [b0, b1, b2, b3, b4, b5, b6, b7], rfl, rfl, congrArg Imm.i64 eight⟩
      start pos rest,
    takeImm_of_spells ⟨8, [b0, b1, b2, b3], rfl, rfl, congrArg Imm.f32 four⟩ start pos rest,
    takeImm_of_spells ⟨9, [b0, b1, b2, b3, b4, b5, b6, b7], rfl, rfl, congrArg Imm.f64 eight⟩
      start pos rest, fun tag htag => ?_⟩
  have hspell : SpellsImm [tag] .none := ⟨tag, [], rfl, by rw [kindOfTag_of_ge htag]; rfl,
    by rw [kindOfTag_of_ge htag]; rfl⟩
  exact takeImm_of_spells hspell start pos rest

/-- Settles O7: the truncated instruction stands behind the bytes of a program, and lacks operands. -/
theorem truncationRecordIsExact : Obligations.TruncationRecordIsExact := by
  unfold Obligations.TruncationRecordIsExact
  intro prog start pos n h
  obtain ⟨before, code, op, operands, d, rfl, hbefore, hlacks, rfl, rfl⟩ :=
    decode_eq_truncated_iff.mp h
  have hwithin := hlacks.within
  have hshort := hlacks.short
  rw [List.take_left, List.drop_left, List.length_append, List.length_cons]
  refine ⟨⟨code, hbefore.decode_eq⟩, decodeInstr_of_lacks hlacks _, by omega, by omega, by omega,
    op, operands, rfl, ?_⟩
  obtain ⟨hlt, rfl, rfl⟩ | ⟨tag, himm, htag, rfl, rfl⟩ := hlacks.wanted
  · exact .inl ⟨hlt, rfl, rfl⟩
  · exact .inr ⟨tag, himm, htag, rfl, rfl⟩

/-- Settles O8: every instruction takes at least its opcode byte. -/
theorem codeNoLongerThanBuffer : Obligations.CodeNoLongerThanBuffer := by
  unfold Obligations.CodeNoLongerThanBuffer
  exact fun _ _ h => (decode_eq_done_iff.mp h).length_le

/-- Settles O1, by running the decoder on the three buffers. -/
theorem writtenWordsDecode : Obligations.WrittenWordsDecode := by
  unfold Obligations.WrittenWordsDecode
  decide

end Sys2Proof

/-! ### NOP and the register moves (40_move.md) -/

namespace Sys2Proof.Machine

@[simp] theorem exec_nop (s : State) : exec .nop s = .next s := rfl

theorem exec_mov (reg : Byte) (imm : Imm) (s : State) :
    exec (.mov reg imm) s = conclude (.mov reg imm) s (writeReg s reg imm) := rfl

/-- MOVR whose source is there is the write of the source's value (R112). -/
theorem exec_movr_of_lt {src : Byte} {s : State} (hs : src.toNat < 8) (dst : Byte) :
    exec (.movr dst src) s = conclude (.movr dst src) s (writeReg s dst s.regs[src.toNat]) := by
  show conclude _ _ ((readReg s src).bind _) = _
  rw [readReg_of_lt hs, bind_ok]

/-- MOVR whose source is absent reports it, whatever the destination (decision D27). -/
theorem exec_movr_of_ge {src : Byte} {s : State} (hs : 8 ≤ src.toNat) (dst : Byte) :
    exec (.movr dst src) s = .fault (.execution (.regIndex src) s.fi (.movr dst src)) := by
  show conclude _ _ ((readReg s src).bind _) = _
  rw [readReg_of_ge hs, bind_error, conclude_error]

/-- Writing back to a register the value it holds changes nothing. -/
theorem writeReg_self {s : State} {i : Byte} (h : i.toNat < 8) :
    writeReg s i s.regs[i.toNat] = .ok s := by
  rw [writeReg_of_lt h, Vector.set_getElem_self]

/-- Settles O19: NOP answers its own state, so a step at it is `advance` alone. -/
theorem nopChangesNothing : Obligations.NopChangesNothing := by
  unfold Obligations.NopChangesNothing
  intro s
  refine ⟨exec_nop s, encodes_of_takes (takes_n _),
    fun op hop => (unknownOpcodeDecodesAsNop op hop).1, fun hrun hfetch => ?_⟩
  exact step_of_next hrun hfetch (exec_nop s)

/-- Settles O20: MOV is one register write, which is done or faults by the index alone. -/
theorem movWritesRegister : Obligations.MovWritesRegister := by
  unfold Obligations.MovWritesRegister
  intro reg imm s
  refine ⟨fun bytes h => encodes_of_takes (takes_ri _ reg h), fun h => ?_, fun h => ?_⟩
  · rw [exec_mov, writeReg_of_lt h, conclude_ok]
  · rw [exec_mov, writeReg_of_ge h, conclude_error]

/-- Settles O21: the source's value is written to the destination; a bad source faults before that. -/
theorem movrCopiesRegister : Obligations.MovrCopiesRegister := by
  unfold Obligations.MovrCopiesRegister
  intro dst src s
  refine ⟨encodes_of_takes (takes_rr _ dst src), fun hd hs => ⟨?_, ?_⟩,
    fun hs => exec_movr_of_ge hs dst, fun hs hd => ?_⟩
  · rw [exec_movr_of_lt hs, writeReg_of_lt hd, conclude_ok]
  · rintro rfl
    rw [exec_movr_of_lt hs, writeReg_self hs, conclude_ok]
  · rw [exec_movr_of_lt hs, writeReg_of_ge hd, conclude_error]

end Sys2Proof.Machine

/-! ### Compare, control transfer and the end of a run (41_compare_branch.md) -/

namespace Sys2Proof

/-! #### A word placed by the host (R132) -/

/-- What the decoder reads at a place are the bytes of its instruction, and it stops after them. -/
theorem exists_encodes_of_decodeInstr {pos : Nat} {bs : List Byte} {x : Instr × Cursor}
    (h : decodeInstr ⟨pos, bs⟩ = .done x) :
    ∃ bytes rest, bs = bytes ++ rest ∧ Encodes bytes x.1 ∧ x.2 = ⟨pos + bytes.length, rest⟩ := by
  cases bs with
  | nil => cases h
  | cons op operands =>
    obtain ⟨taken, rest, i, rfl, htakes⟩ | ⟨d, n, hlacks⟩ := takes_or_lacks (formatOf op) operands
    · have hi := encodes_of_takes htakes
      cases h.symm.trans (hi pos rest)
      exact ⟨op :: taken, rest, rfl, hi, rfl⟩
    · cases h.symm.trans (decodeInstr_of_lacks hlacks pos)

/-- The program of a word is its one instruction, without the bytes the word was filled up with. -/
theorem decode_tableProgram {nbits w : Nat} {i : Instr} (h : decodeTableWord nbits w = some i) :
    decode (tableProgram nbits w) = .done [i] := by
  unfold decodeTableWord at h
  unfold tableProgram
  cases hx : decodeInstr ⟨0, tableBytes nbits w⟩ with
  | truncated start pos n => simp [hx] at h
  | done x =>
    obtain ⟨bytes, rest, hbytes, hi, hcursor⟩ := exists_encodes_of_decodeInstr hx
    simp only [hx, Option.some.injEq] at h
    simp only [hbytes, hcursor, Nat.zero_add, List.take_left]
    exact h ▸ (Decodes.single hi).decode_eq

/-! #### The order of float patterns is the order of the numbers they denote (R120, R121) -/

section FloatOrder

variable {F : FloatFormat}

/-- A magnitude lies below the first one of the next exponent. -/
theorem unitsOf_lt (F : FloatFormat) (m : Nat) :
    unitsOf F m < 2 ^ F.fracBits * 2 ^ (m / 2 ^ F.fracBits) := by
  have hfrac := Nat.mod_lt m (Nat.two_pow_pos F.fracBits)
  unfold unitsOf
  cases he : m / 2 ^ F.fracBits with
  | zero => simpa [he] using Nat.lt_of_div_eq_zero (Nat.two_pow_pos _) he
  | succ e =>
    rw [if_neg e.succ_ne_zero, Nat.add_sub_cancel, pow_succ, mul_comm (2 ^ e), ← mul_assoc]
    exact Nat.mul_lt_mul_of_pos_right (by omega) (Nat.two_pow_pos e)

/-- A normal magnitude is at least the first one of its exponent. -/
theorem le_unitsOf {m : Nat} (he : m / 2 ^ F.fracBits ≠ 0) :
    2 ^ F.fracBits * 2 ^ (m / 2 ^ F.fracBits - 1) ≤ unitsOf F m := by
  rw [unitsOf, if_neg he]
  exact Nat.mul_le_mul_right _ (Nat.le_add_right _ _)

/-- Among magnitudes of one exponent the fraction decides. -/
theorem unitsOf_lt_of_div_eq {m n : Nat} (hmn : m < n)
    (he : m / 2 ^ F.fracBits = n / 2 ^ F.fracBits) : unitsOf F m < unitsOf F n := by
  have hm := Nat.div_add_mod m (2 ^ F.fracBits)
  have hn := Nat.div_add_mod n (2 ^ F.fracBits)
  rw [← he] at hn
  unfold unitsOf
  rw [← he]
  split
  · exact hmn
  · exact Nat.mul_lt_mul_of_pos_right (by omega) (Nat.two_pow_pos _)

/-- A greater magnitude pattern is a greater number of units: the exponent decides first, then the
fraction. -/
theorem unitsOf_strictMono (F : FloatFormat) : StrictMono (unitsOf F) := by
  intro m n hmn
  obtain he | he := (Nat.div_le_div_right hmn.le : m / 2 ^ F.fracBits ≤ n / 2 ^ F.fracBits).eq_or_lt
  · exact unitsOf_lt_of_div_eq hmn he
  · calc unitsOf F m < 2 ^ F.fracBits * 2 ^ (m / 2 ^ F.fracBits) := unitsOf_lt F m
      _ ≤ 2 ^ F.fracBits * 2 ^ (n / 2 ^ F.fracBits - 1) :=
        Nat.mul_le_mul_left _ (Nat.pow_le_pow_right Nat.two_pos (by omega))
      _ ≤ unitsOf F n := le_unitsOf (Nat.ne_zero_of_lt he)

@[simp] theorem unitsOf_zero (F : FloatFormat) : unitsOf F 0 = 0 := by
  simp [unitsOf]

/-- The number of units of a float key, the sign of the key carried over. -/
def keyUnits (F : FloatFormat) (k : Int) : Int := k.sign * unitsOf F k.natAbs

theorem keyUnits_natCast (F : FloatFormat) (n : Nat) : keyUnits F n = unitsOf F n := by
  rw [keyUnits, Int.natAbs_natCast]
  obtain rfl | hn := n.eq_zero_or_pos
  · simp
  · rw [Int.sign_eq_one_of_pos (Int.natCast_pos.mpr hn), one_mul]

theorem keyUnits_neg (F : FloatFormat) (k : Int) : keyUnits F (-k) = -keyUnits F k := by
  simp [keyUnits]

theorem keyUnits_strictMono (F : FloatFormat) : StrictMono (keyUnits F) := by
  refine strictMono_of_odd_strictMonoOn_nonneg (keyUnits_neg F) fun k hk l hl hkl => ?_
  lift k to Nat using hk
  lift l to Nat using hl
  simp only [keyUnits_natCast, Nat.cast_lt] at hkl ⊢
  exact unitsOf_strictMono F hkl

theorem signedUnits_eq (F : FloatFormat) (p : Nat) : signedUnits F p = keyUnits F (floatKey F p) := by
  cases hs : floatSign F p <;> simp [signedUnits, floatKey, hs, keyUnits_neg, keyUnits_natCast]

/-- 1.0 is not zero in a format with an exponent between those of 0 and infinity. -/
theorem unitsOfOne_pos (hF : 1 < F.expBits) : 0 < unitsOfOne F := by
  have hexp : 1 < 2 ^ (F.expBits - 1) := Nat.one_lt_two_pow (by omega)
  have hone : 0 < (2 ^ (F.expBits - 1) - 1) * 2 ^ F.fracBits :=
    Nat.mul_pos (by omega) (Nat.two_pow_pos _)
  exact hone.trans_le (unitsOf_strictMono F).le_apply

theorem floatValue_lt_iff (hF : 1 < F.expBits) (p q : Nat) :
    floatValue F p < floatValue F q ↔ floatKey F p < floatKey F q := by
  have hone : (0 : ℚ) < unitsOfOne F := Nat.cast_pos.mpr (unitsOfOne_pos hF)
  rw [floatValue, floatValue, div_lt_div_iff_of_pos_right hone, Int.cast_lt, signedUnits_eq,
    signedUnits_eq, (keyUnits_strictMono F).lt_iff_lt]

theorem floatValue_eq_iff (hF : 1 < F.expBits) (p q : Nat) :
    floatValue F p = floatValue F q ↔ floatKey F p = floatKey F q := by
  simp only [le_antisymm_iff, ← not_lt, floatValue_lt_iff hF]

/-! #### The comparisons of a format by the keys -/

theorem isNaN_of_isFinite {p : Nat} (h : isFinite F p = true) : isNaN F p = false := by
  simp only [isFinite, isNaN, decide_eq_true_eq, decide_eq_false_iff_not] at h ⊢
  omega

theorem isNaN_of_isInf {p : Nat} (h : isInf F p = true) : isNaN F p = false := by
  simp only [isInf, isNaN, decide_eq_true_eq, decide_eq_false_iff_not] at h ⊢
  omega

theorem floatCompare_of_isNaN {a b : Nat} (h : isNaN F a = true ∨ isNaN F b = true) :
    floatEq F a b = false ∧ floatGt F a b = false := by
  obtain h | h := h <;> simp [floatEq, floatGt, h]

theorem floatEq_iff {a b : Nat} (ha : isNaN F a = false) (hb : isNaN F b = false) :
    floatEq F a b = true ↔ floatKey F a = floatKey F b := by
  simp [floatEq, ha, hb]

theorem floatGt_iff {a b : Nat} (ha : isNaN F a = false) (hb : isNaN F b = false) :
    floatGt F a b = true ↔ floatKey F b < floatKey F a := by
  simp [floatGt, ha, hb]

/-- An infinity has the outermost key of its sign. -/
theorem floatKey_of_isInf {p : Nat} (h : isInf F p = true) :
    floatKey F p = if floatSign F p then -(infPattern F : Int) else infPattern F := by
  rw [isInf, decide_eq_true_eq] at h
  rw [floatKey, h]

/-- The key of a finite pattern lies between those of the infinities. -/
theorem floatKey_of_isFinite {p : Nat} (h : isFinite F p = true) :
    -(infPattern F : Int) < floatKey F p ∧ floatKey F p < infPattern F := by
  rw [isFinite, decide_eq_true_eq] at h
  unfold floatKey
  split <;> omega

theorem infPattern_pos (hF : 1 < F.expBits) : 0 < infPattern F := by
  have hexp : 1 < 2 ^ F.expBits := Nat.one_lt_two_pow (by omega)
  exact Nat.mul_pos (by omega) (Nat.two_pow_pos _)

/-- An infinity and a finite pattern: the sign of the infinity decides, in either order. -/
theorem floatCompare_inf_finite {a b : Nat} (ha : isInf F a = true) (hb : isFinite F b = true) :
    floatEq F a b = false ∧ floatEq F b a = false ∧
      (floatGt F a b = true ↔ floatSign F a = false) ∧
      (floatGt F b a = true ↔ floatSign F a = true) := by
  have ha' := isNaN_of_isInf ha
  have hb' := isNaN_of_isFinite hb
  obtain ⟨hlow, hhigh⟩ := floatKey_of_isFinite hb
  rw [← Bool.not_eq_true, ← Bool.not_eq_true, floatEq_iff ha' hb', floatEq_iff hb' ha',
    floatGt_iff ha' hb', floatGt_iff hb' ha', floatKey_of_isInf ha]
  cases floatSign F a <;> simp <;> omega

/-- Two infinities: their signs decide. -/
theorem floatCompare_inf_inf (hF : 1 < F.expBits) {a b : Nat} (ha : isInf F a = true)
    (hb : isInf F b = true) :
    (floatEq F a b = true ↔ floatSign F a = floatSign F b) ∧
      (floatGt F a b = true ↔ floatSign F a = false ∧ floatSign F b = true) := by
  have ha' := isNaN_of_isInf ha
  have hb' := isNaN_of_isInf hb
  have hpos := infPattern_pos hF
  rw [floatEq_iff ha' hb', floatGt_iff ha' hb', floatKey_of_isInf ha, floatKey_of_isInf hb]
  cases floatSign F a <;> cases floatSign F b <;> simp <;> omega

end FloatOrder

end Sys2Proof

namespace Sys2Proof.Machine

/-- The load of a program that decodes (log entry 2). -/
theorem loadProgram_of_done {s : State} {prog : List Byte} {code : List Instr}
    (h : decode prog = .done code) :
    loadProgram s prog =
      { s with prog := prog, code := code, fi := 0, status := .running, fault := none } := by
  simp [loadProgram, h]

/-- Settles O9: the program of the word is its one instruction, and the load puts `fi` on it. -/
theorem placedWordIsFetched : Obligations.PlacedWordIsFetched := by
  unfold Obligations.PlacedWordIsFetched
  intro s nbits w i h
  rw [State.withFetchWord, loadProgram_of_done (decode_tableProgram h)]
  exact ⟨rfl, rfl⟩

/-! #### Every run ends (R134, R244) -/

section RunEnds

variable {s t : State}

/-- At most `n` steps lead to a terminal state, which is DONE only with every instruction executed. -/
def EndsWithin (n : Nat) (s : State) : Prop :=
  ∃ k t, k ≤ n ∧ Sys2Proof.core.run k s = .next t ∧ t.terminal ∧
    (t.status = .done → t.fi = s.code.length)

theorem endsWithin_of_terminal (n : Nat) (hs : s.Inv) (hterm : s.terminal) : EndsWithin n s := by
  obtain ⟨-, -, -, -, -, hpos, -⟩ := hs
  refine ⟨0, s, Nat.zero_le n, rfl, hterm, fun hdone => ?_⟩
  simpa [positionFits, hdone] using hpos

theorem run_succ_of_step (k : Nat) (h : step s = .next t) :
    Sys2Proof.core.run (k + 1) s = Sys2Proof.core.run k t := by
  have hcore : Sys2Proof.core.step s = .next t := h
  simp only [Host.Core.run, hcore]

theorem endsWithin_succ {n : Nat} (h : step s = .next t) (ht : EndsWithin n t) :
    EndsWithin (n + 1) s := by
  obtain ⟨k, u, hk, hrun, hterm, hdone⟩ := ht
  obtain ⟨hcode, -⟩ := stepKeepsCodeAndExtendsObs s t h
  exact ⟨k + 1, u, Nat.succ_le_succ hk, (run_succ_of_step k h).trans hrun, hterm, hcode ▸ hdone⟩

theorem terminal_or_running_of_runStatus (h : t.status = runStatus t.fi t.code) :
    t.terminal ∨ t.status = .running := by
  unfold runStatus at h
  split at h
  · exact .inr h
  · exact .inl (.inl h)

/-- A step at an instruction ends the run or leaves one instruction fewer. -/
theorem exists_step_of_running (hs : s.status = .running) (hfi : s.fi < s.code.length) :
    ∃ t, step s = .next t ∧ (t.terminal ∨ t.status = .running ∧ t.fi = s.fi + 1) := by
  have hi : fetch s = some s.code[s.fi] := List.getElem?_eq_getElem hfi
  cases he : exec s.code[s.fi] s with
  | next u =>
    obtain ⟨-, -, -, hfi', -⟩ := (exec_effect he).sequencer_eq
    refine ⟨advance u, step_of_next hs hi he, ?_⟩
    exact (terminal_or_running_of_runStatus rfl).imp_right fun hrun => ⟨hrun, congrArg (· + 1) hfi'⟩
  | fault f => exact ⟨recordFault s f, step_of_fault hs hi he, .inl (.inr rfl)⟩
  | refused why =>
    obtain ⟨r, hr⟩ := exec_eq_conclude s.code[s.fi] s
    exact absurd (hr ▸ he) (conclude_ne_refused _ _ _ _)

/-- A RUNNING machine has an instruction left (10_state.md R40). -/
theorem fi_lt_of_running (hs : s.Inv) (hrun : s.status = .running) : s.fi < s.code.length := by
  obtain ⟨-, -, -, -, -, hpos, -⟩ := hs
  simpa [positionFits, hrun] using hpos

/-- A RUNNING machine ends within the instructions left. -/
theorem endsWithin_of_running {n : Nat} (hs : s.Inv) (hrun : s.status = .running)
    (hn : s.code.length = s.fi + n) : EndsWithin n s := by
  have hfi := fi_lt_of_running hs hrun
  induction n generalizing s with
  | zero => omega
  | succ n ih =>
    obtain ⟨t, hstep, hnext⟩ := exists_step_of_running hrun hfi
    have ht := stepKeepsInvariant s t hs hstep
    obtain ⟨hcode, -⟩ := stepKeepsCodeAndExtendsObs s t hstep
    refine endsWithin_succ hstep ?_
    obtain hterm | ⟨hrun', hfi'⟩ := hnext
    · exact endsWithin_of_terminal n ht hterm
    · exact ih ht hrun' (by rw [hcode, hfi', hn]; omega) (fi_lt_of_running ht hrun')

end RunEnds

/-- Settles O17, by induction on the instructions left; a CONSTRUCTED machine takes the `run` event
first. -/
theorem everyRunEnds : Obligations.EveryRunEnds := by
  unfold Obligations.EveryRunEnds
  intro s hs hterm
  obtain ⟨hdone, hfaulted⟩ := not_or.mp hterm
  have hleft : s.code.length = s.fi + (s.code.length - s.fi) := by
    obtain ⟨-, -, -, -, -, -, hlive⟩ := hs
    obtain ⟨-, hfi, -⟩ := hlive hfaulted
    omega
  cases hstatus : s.status with
  | constructed =>
    have ht := startRun_keeps_inv hs hfaulted
    refine endsWithin_succ (step_of_constructed hstatus) ?_
    obtain hterm | hrun := terminal_or_running_of_runStatus (t := startRun s) rfl
    · exact endsWithin_of_terminal _ ht hterm
    · exact endsWithin_of_running ht hrun hleft
  | running =>
    obtain ⟨k, t, hk, hrest⟩ := endsWithin_of_running hs hstatus hleft
    exact ⟨k, t, Nat.le_succ_of_le hk, hrest⟩
  | done => exact absurd hstatus hdone
  | faulted => exact absurd hstatus hfaulted

/-! #### The comparison of Immediates (R120, R121) -/

section Comparison

variable {a b : Imm}

theorem immCompare_of_kind_ne (h : a.kind ≠ b.kind) :
    immEq a b = false ∧ immGt a b = decide (b.kind.rank < a.kind.rank) := by
  simp [immEq, immGt, h]

theorem immCompare_of_none (ha : a.kind = .none) (hb : b.kind = .none) :
    immEq a b = true ∧ immGt a b = false := by
  simp [immEq, immGt, ha, hb]

theorem immCompare_of_integer (h : a.kind = b.kind) (hint : a.kind.isInteger = true) :
    immEq a b = decide (a.val = b.val) ∧ immGt a b = decide (b.val < a.val) := by
  have hnone : a.kind ≠ .none := by rintro hk; simp [hk, Kind.isInteger, Kind.isNumeric] at hint
  have h32 : a.kind ≠ .f32 := by rintro hk; simp [hk, Kind.isInteger, Kind.isFloat] at hint
  have h64 : a.kind ≠ .f64 := by rintro hk; simp [hk, Kind.isInteger, Kind.isFloat] at hint
  simp [immEq, immGt, ← h, hnone, h32, h64]

theorem immCompare_f32 (x y : BitVec 32) :
    immEq (.f32 x) (.f32 y) = floatEq binary32 x.toNat y.toNat ∧
      immGt (.f32 x) (.f32 y) = floatGt binary32 x.toNat y.toNat := ⟨rfl, rfl⟩

theorem immCompare_f64 (x y : BitVec 64) :
    immEq (.f64 x) (.f64 y) = floatEq binary64 x.toNat y.toNat ∧
      immGt (.f64 x) (.f64 y) = floatGt binary64 x.toNat y.toNat := ⟨rfl, rfl⟩

end Comparison

/-- Settles O23: the rank decides across kinds, the value within an integer kind. -/
theorem comparisonByKindThenValue : Obligations.ComparisonByKindThenValue := by
  unfold Obligations.ComparisonByKindThenValue
  refine ⟨rfl, fun a b => ⟨fun h => ?_, immCompare_of_none, fun h hint => ?_⟩⟩
  · obtain ⟨heq, hgt⟩ := immCompare_of_kind_ne h
    exact ⟨heq, by rw [hgt, decide_eq_true_eq]⟩
  · obtain ⟨heq, hgt⟩ := immCompare_of_integer h hint
    rw [heq, hgt, decide_eq_true_eq, decide_eq_true_eq]
    exact ⟨.rfl, .rfl⟩

/-- Settles O24: patterns compare by their keys, and the keys are ordered as the numbers are. -/
theorem floatComparisonIsNumeric : Obligations.FloatComparisonIsNumeric := by
  unfold Obligations.FloatComparisonIsNumeric
  refine ⟨immCompare_f32, immCompare_f64, fun F hF a b => ?_⟩
  have hexp : 1 < F.expBits := by obtain rfl | rfl := hF <;> decide
  refine ⟨floatCompare_of_isNaN, fun ha hb => ?_, floatCompare_inf_finite,
    floatCompare_inf_inf hexp⟩
  have ha' := isNaN_of_isFinite ha
  have hb' := isNaN_of_isFinite hb
  exact ⟨(floatEq_iff ha' hb').trans (floatValue_eq_iff hexp a b).symm,
    (floatGt_iff ha' hb').trans (floatValue_lt_iff hexp b a).symm⟩

/-! #### CMP (R122) -/

/-- CMP whose registers are there sets both flags from their values. -/
theorem exec_cmp_of_lt {reg1 reg2 : Byte} (s : State) (h1 : reg1.toNat < 8) (h2 : reg2.toNat < 8) :
    exec (.cmp reg1 reg2) s =
      .next (setFlags s (immEq s.regs[reg1.toNat] s.regs[reg2.toNat])
        (immGt s.regs[reg1.toNat] s.regs[reg2.toNat])) := by
  show conclude _ _ ((readReg s reg1).bind _) = _
  rw [readReg_of_lt h1, bind_ok, readReg_of_lt h2, bind_ok, conclude_ok]

/-- An absent first register is reported, whatever the second (decision D27). -/
theorem exec_cmp_of_ge_left {reg1 : Byte} (reg2 : Byte) (s : State) (h1 : 8 ≤ reg1.toNat) :
    exec (.cmp reg1 reg2) s = .fault (.execution (.regIndex reg1) s.fi (.cmp reg1 reg2)) := by
  show conclude _ _ ((readReg s reg1).bind _) = _
  rw [readReg_of_ge h1, bind_error, conclude_error]

theorem exec_cmp_of_ge_right {reg1 reg2 : Byte} (s : State) (h1 : reg1.toNat < 8)
    (h2 : 8 ≤ reg2.toNat) :
    exec (.cmp reg1 reg2) s = .fault (.execution (.regIndex reg2) s.fi (.cmp reg1 reg2)) := by
  show conclude _ _ ((readReg s reg1).bind _) = _
  rw [readReg_of_lt h1, bind_ok, readReg_of_ge h2, bind_error, conclude_error]

/-- Settles O22: two register reads, which fault by their index alone, then both flags. -/
theorem cmpWritesBothFlags : Obligations.CmpWritesBothFlags := by
  unfold Obligations.CmpWritesBothFlags
  exact fun reg1 reg2 s => ⟨encodes_of_takes (takes_rr _ reg1 reg2), exec_cmp_of_lt s,
    exec_cmp_of_ge_left reg2 s, exec_cmp_of_ge_right s⟩

/-- A completing CMP leaves the flags of a comparison, never both true. -/
theorem flags_apart_of_exec_cmp {reg1 reg2 : Byte} {s t : State}
    (h : exec (.cmp reg1 reg2) s = .next t) : ¬(t.flagEq = true ∧ t.flagGt = true) := by
  obtain ⟨v, -, h⟩ := bind_eq_ok.mp (conclude_eq_next.mp h)
  obtain ⟨w, -, h⟩ := bind_eq_ok.mp h
  cases h
  exact not_immEq_and_immGt v w

/-- Settles O25: with flag_eq the flags being apart leaves JE alone, without it flag_gt decides between JG
and JL. -/
theorem exactlyOneConditionAfterCmp : Obligations.ExactlyOneConditionAfterCmp := by
  unfold Obligations.ExactlyOneConditionAfterCmp
  intro reg1 reg2 s t h
  have hflags := flags_apart_of_exec_cmp h
  refine ⟨hflags, ?_⟩
  unfold takenJe takenJne takenJg takenJl
  cases heq : t.flagEq with
  | true =>
    have hgt : t.flagGt = false := by simpa [heq] using hflags
    simp [hgt]
  | false => cases t.flagGt <;> simp

/-! #### The jump action (R123, R124) -/

theorem jumpTarget_eq_none {cfg : Config} {v : Imm} (h8 : v.kind ≠ .u8) (h16 : v.kind ≠ .u16) :
    jumpTarget cfg v = none := by
  cases v with
  | u8 v => exact absurd rfl h8
  | u16 v => exact absurd rfl h16
  | _ => rfl

/-- An instruction that ends in the jump action from `u`: a U8 or U16 goes to `ip`, another kind and an
absent register fault. -/
theorem conclude_jumpReg (i : Instr) (s u : State) (reg : Byte) :
    (∀ h : reg.toNat < 8,
      (∀ v, u.regs[reg.toNat] = .u8 v →
        conclude i s (jumpReg u reg) = .next { u with ip := zext u.cfg.ipWidth v.toNat }) ∧
      (∀ v, u.regs[reg.toNat] = .u16 v →
        conclude i s (jumpReg u reg) = .next { u with ip := zext u.cfg.ipWidth v.toNat }) ∧
      (u.regs[reg.toNat].kind ≠ .u8 → u.regs[reg.toNat].kind ≠ .u16 →
        conclude i s (jumpReg u reg) =
          .fault (.execution (.badJumpKind u.regs[reg.toNat]) s.fi i))) ∧
    (8 ≤ reg.toNat → conclude i s (jumpReg u reg) = .fault (.execution (.regIndex reg) s.fi i)) := by
  refine ⟨fun h => ⟨fun v hv => ?_, fun v hv => ?_, fun h8 h16 => ?_⟩, fun h => ?_⟩
  · exact conclude_eq_next.mpr (jumpReg_eq_ok.mpr ⟨h, _, hv ▸ rfl, rfl⟩)
  · exact conclude_eq_next.mpr (jumpReg_eq_ok.mpr ⟨h, _, hv ▸ rfl, rfl⟩)
  · exact conclude_eq_fault.mpr
      ⟨_, jumpReg_eq_error.mpr (.inr ⟨h, jumpTarget_eq_none h8 h16, rfl⟩), rfl⟩
  · exact conclude_eq_fault.mpr ⟨_, jumpReg_eq_error.mpr (.inl ⟨h, rfl⟩), rfl⟩

theorem exec_jmp (reg : Byte) (s : State) :
    exec (.jmp reg) s = conclude (.jmp reg) s (jumpReg s reg) := rfl

/-- Settles O26: JMP is the jump action. -/
theorem jmpWritesIp : Obligations.JmpWritesIp := by
  unfold Obligations.JmpWritesIp
  intro reg s
  rw [exec_jmp]
  obtain ⟨hthere, habsent⟩ := conclude_jumpReg (.jmp reg) s s reg
  exact ⟨encodes_of_takes (takes_r _ reg), hthere, habsent, fun hw n hn => zext_of_le hw hn⟩

/-- Each conditional jump is `jumpIf` of its condition (R125 to R129, decision D11). -/
theorem exec_eq_jumpIf {i : Instr} {taken : Bool} {reg : Byte} {s : State}
    (h : (i = .je reg ∧ taken = s.flagEq) ∨ (i = .jne reg ∧ taken = !s.flagEq) ∨
      (i = .jg reg ∧ taken = s.flagGt) ∨ (i = .jl reg ∧ taken = (!s.flagGt && !s.flagEq))) :
    exec i s = conclude i s (jumpIf s taken reg) := by
  obtain ⟨rfl, rfl⟩ | ⟨rfl, rfl⟩ | ⟨rfl, rfl⟩ | ⟨rfl, rfl⟩ := h <;> rfl

/-- Settles O27: an untaken jump leaves the state, a taken one is the jump action. -/
theorem conditionalJumps : Obligations.ConditionalJumps := by
  unfold Obligations.ConditionalJumps
  intro reg s i taken h
  rw [exec_eq_jumpIf h]
  constructor
  · rintro rfl
    rw [jumpIf_false, conclude_ok]
  · rintro rfl
    exact conclude_jumpReg i s s reg

/-! #### CALL and RET (R130, R131) -/

theorem stackHasRoom_iff {s : State} : stackHasRoom s.cfg s.stack = true ↔ HasRoom s := by
  cases hcap : s.cfg.stackCapacity <;> simp [stackHasRoom, HasRoom, hcap]

theorem push_of_hasRoom {s : State} (h : HasRoom s) (v : Imm) :
    push s v = .ok { s with stack := s.stack ++ [v] } :=
  push_of_room (stackHasRoom_iff.mpr h) v

theorem push_of_not_hasRoom {s : State} (h : ¬HasRoom s) (v : Imm) :
    push s v = .error .stackOverflow :=
  push_of_full (eq_false_of_ne_true (mt stackHasRoom_iff.mp h)) v

/-- The 16 bits of the return address are those of `ip + 1` modulo 65536. -/
theorem returnAddress_eq (s : State) :
    returnAddress s = .u16 (BitVec.ofNat 16 ((s.ip + 1) % 65536)) :=
  congrArg Imm.u16 (BitVec.eq_of_toNat_eq (by simp))

/-- CALL with room is the jump action after the push. -/
theorem exec_call_of_room {s : State} (h : HasRoom s) (reg : Byte) :
    exec (.call reg) s = conclude (.call reg) s
      (jumpReg { s with stack := s.stack ++ [returnAddress s] } reg) := by
  show conclude _ _ ((push s (returnAddress s)).bind _) = _
  rw [push_of_hasRoom h, bind_ok]

/-- CALL without room reports it before it looks at the register (decision D27). -/
theorem exec_call_of_full {s : State} (h : ¬HasRoom s) (reg : Byte) :
    exec (.call reg) s = .fault (.execution .stackOverflow s.fi (.call reg)) := by
  show conclude _ _ ((push s (returnAddress s)).bind _) = _
  rw [push_of_not_hasRoom h, bind_error, conclude_error]

/-- Settles O28: CALL is the push of the return address, then the jump action. -/
theorem callPushesReturnAddress : Obligations.CallPushesReturnAddress := by
  unfold Obligations.CallPushesReturnAddress
  intro reg s
  refine ⟨encodes_of_takes (takes_r _ reg), fun hroom => ?_, fun hfull => exec_call_of_full hfull reg⟩
  rw [exec_call_of_room hroom, ← returnAddress_eq]
  exact conclude_jumpReg (.call reg) s { s with stack := s.stack ++ [returnAddress s] } reg

/-- RET with a jump target on top removes it and writes `ip`. -/
theorem exec_ret_of_target {s : State} {below : List Imm} {v : Imm} {x : Nat}
    (htop : s.stack = below ++ [v]) (hx : jumpTarget s.cfg v = some x) :
    exec .ret s = .next { s with stack := below, ip := x } := by
  show conclude _ _ ((pop s).bind _) = _
  rw [pop_concat htop, bind_ok]
  simp only [hx]
  rfl

theorem exec_ret_of_no_target {s : State} {below : List Imm} {v : Imm}
    (htop : s.stack = below ++ [v]) (hx : jumpTarget s.cfg v = none) :
    exec .ret s = .fault (.execution (.badReturnKind v) s.fi .ret) := by
  show conclude _ _ ((pop s).bind _) = _
  rw [pop_concat htop, bind_ok]
  simp only [hx]
  rfl

theorem exec_ret_of_empty {s : State} (h : s.stack = []) :
    exec .ret s = .fault (.execution .stackEmpty s.fi .ret) := by
  show conclude _ _ ((pop s).bind _) = _
  rw [pop_empty h, bind_error, conclude_error]

/-- Settles O29, by the top of the stack: a U8 or U16 is a target, no other kind is. -/
theorem retPopsIntoIp : Obligations.RetPopsIntoIp := by
  unfold Obligations.RetPopsIntoIp
  exact fun s => ⟨encodes_of_takes (takes_n _), fun below v htop => exec_ret_of_target htop rfl,
    fun below v htop => exec_ret_of_target htop rfl,
    fun below v htop h8 h16 => exec_ret_of_no_target htop (jumpTarget_eq_none h8 h16),
    exec_ret_of_empty, fun hw n hn => zext_of_le hw hn⟩

end Sys2Proof.Machine

/-! ### Heap loads and stores (42_heap.md) -/

namespace Sys2Proof.Machine

/-! #### VSTORE and VSTORER (R140, R142) -/

/-- An instruction that ends in a heap write changes the heap alone, and there the one cell; an address
that does not exist faults. -/
theorem conclude_heapWrite (i : Instr) (s : State) (addr : Byte) (v : Imm) :
    (Memory.wf s.heap = true → addr.toNat < s.cfg.heapCap →
      ∃ heap, conclude i s (heapWrite s addr v) = .next { s with heap := heap } ∧
        Memory.read heap addr.toNat = v ∧
        ∀ a, a ≠ addr.toNat → Memory.read heap a = Memory.read s.heap a) ∧
    (s.cfg.heapCap ≤ addr.toNat →
      conclude i s (heapWrite s addr v) = .fault (.execution (.heapAddr addr) s.fi i)) := by
  refine ⟨fun hwf h => ⟨Memory.write s.heap addr.toNat v, ?_, ?_, fun a ha => ?_⟩, fun h => ?_⟩
  · rw [heapWrite_of_lt h, conclude_ok]
  · rw [Memory.read_write hwf, if_pos rfl]
  · rw [Memory.read_write hwf, if_neg ha]
  · rw [heapWrite_of_ge h, conclude_error]

theorem exec_vstore (addr : Byte) (imm : Imm) (s : State) :
    exec (.vstore addr imm) s = conclude (.vstore addr imm) s (heapWrite s addr imm) := rfl

/-- Settles O30: VSTORE is one heap write. -/
theorem vstoreWritesCell : Obligations.VstoreWritesCell := by
  unfold Obligations.VstoreWritesCell
  intro addr imm s
  rw [exec_vstore]
  exact ⟨fun bytes h => encodes_of_takes (takes_ai _ addr h), conclude_heapWrite _ s addr imm⟩

/-- VSTORER whose register is there is the heap write of its value (R142). -/
theorem exec_vstorer_of_lt {reg : Byte} {s : State} (h : reg.toNat < 8) (addr : Byte) :
    exec (.vstorer addr reg) s =
      conclude (.vstorer addr reg) s (heapWrite s addr s.regs[reg.toNat]) := by
  show conclude _ _ ((readReg s reg).bind _) = _
  rw [readReg_of_lt h, bind_ok]

/-- VSTORER whose register is absent reports it, whatever the address (decision D27). -/
theorem exec_vstorer_of_ge {reg : Byte} {s : State} (h : 8 ≤ reg.toNat) (addr : Byte) :
    exec (.vstorer addr reg) s = .fault (.execution (.regIndex reg) s.fi (.vstorer addr reg)) := by
  show conclude _ _ ((readReg s reg).bind _) = _
  rw [readReg_of_ge h, bind_error, conclude_error]

/-- Settles O32: the register's value is written to the cell; a bad register faults before that. -/
theorem vstorerStoresRegister : Obligations.VstorerStoresRegister := by
  unfold Obligations.VstorerStoresRegister
  intro addr reg s
  refine ⟨encodes_of_takes (takes_ar _ addr reg), fun hwf h haddr => ?_,
    fun h => exec_vstorer_of_ge h addr, fun h haddr => ?_⟩
  · rw [exec_vstorer_of_lt h]
    exact (conclude_heapWrite _ s addr _).1 hwf haddr
  · rw [exec_vstorer_of_lt h]
    exact (conclude_heapWrite _ s addr _).2 haddr

/-! #### VLOAD and VLOADR (R141, R143) -/

/-- VLOAD whose cell exists is the push of its value. -/
theorem exec_vload_of_lt {addr : Byte} {s : State} (h : addr.toNat < s.cfg.heapCap) :
    exec (.vload addr) s =
      conclude (.vload addr) s (push s (Memory.read s.heap addr.toNat)) := by
  show conclude _ _ ((heapRead s addr).bind _) = _
  rw [heapRead_of_lt h, bind_ok]

/-- VLOAD whose cell does not exist reports it, whatever the stack (R141). -/
theorem exec_vload_of_ge {addr : Byte} {s : State} (h : s.cfg.heapCap ≤ addr.toNat) :
    exec (.vload addr) s = .fault (.execution (.heapAddr addr) s.fi (.vload addr)) := by
  show conclude _ _ ((heapRead s addr).bind _) = _
  rw [heapRead_of_ge h, bind_error, conclude_error]

/-- Settles O31: the cell's value is pushed; a bad address faults before that. -/
theorem vloadPushesCell : Obligations.VloadPushesCell := by
  unfold Obligations.VloadPushesCell
  intro addr s
  refine ⟨encodes_of_takes (takes_a _ addr), fun haddr hroom => ?_, exec_vload_of_ge,
    fun haddr hfull => ?_⟩
  · rw [exec_vload_of_lt haddr, push_of_hasRoom hroom, conclude_ok]
  · rw [exec_vload_of_lt haddr, push_of_not_hasRoom hfull, conclude_error]

/-- VLOADR whose cell exists is the register write of its value (R143). -/
theorem exec_vloadr_of_lt {addr : Byte} {s : State} (h : addr.toNat < s.cfg.heapCap) (reg : Byte) :
    exec (.vloadr reg addr) s =
      conclude (.vloadr reg addr) s (writeReg s reg (Memory.read s.heap addr.toNat)) := by
  show conclude _ _ ((heapRead s addr).bind _) = _
  rw [heapRead_of_lt h, bind_ok]

/-- VLOADR whose cell does not exist reports it, whatever the register (decision D27). -/
theorem exec_vloadr_of_ge {addr : Byte} {s : State} (h : s.cfg.heapCap ≤ addr.toNat) (reg : Byte) :
    exec (.vloadr reg addr) s =
      .fault (.execution (.heapAddr addr) s.fi (.vloadr reg addr)) := by
  show conclude _ _ ((heapRead s addr).bind _) = _
  rw [heapRead_of_ge h, bind_error, conclude_error]

/-- Settles O33: the cell's value is written to the register; a bad address faults before that. -/
theorem vloadrLoadsCell : Obligations.VloadrLoadsCell := by
  unfold Obligations.VloadrLoadsCell
  intro reg addr s
  refine ⟨encodes_of_takes (takes_ra _ reg addr), fun hreg haddr => ?_,
    fun haddr => exec_vloadr_of_ge haddr reg, fun hreg haddr => ?_⟩
  · rw [exec_vloadr_of_lt haddr, writeReg_of_lt hreg, conclude_ok]
  · rw [exec_vloadr_of_lt haddr, writeReg_of_ge hreg, conclude_error]

end Sys2Proof.Machine

/-! ### The operand stack (43_stack.md) -/

namespace Sys2Proof.Machine

/-! #### VPUSH and VPUSHR (R150, R151) -/

theorem hasRoom_of_unbounded {s : State} (h : s.cfg.stackCapacity = none) : HasRoom s :=
  fun _ hcap => nomatch h.symm.trans hcap

/-- An instruction that ends in a push appends one entry to the stack; a full stack faults. -/
theorem conclude_push (i : Instr) (s : State) (v : Imm) :
    (HasRoom s → conclude i s (push s v) = .next { s with stack := s.stack ++ [v] }) ∧
    (¬HasRoom s → conclude i s (push s v) = .fault (.execution .stackOverflow s.fi i)) := by
  refine ⟨fun hroom => ?_, fun hfull => ?_⟩
  · rw [push_of_hasRoom hroom, conclude_ok]
  · rw [push_of_not_hasRoom hfull, conclude_error]

theorem exec_vpush (imm : Imm) (s : State) :
    exec (.vpush imm) s = conclude (.vpush imm) s (push s imm) := rfl

/-- Settles O35: VPUSH is one push. -/
theorem vpushAppends : Obligations.VpushAppends := by
  unfold Obligations.VpushAppends
  intro imm s
  rw [exec_vpush]
  obtain ⟨hroom, hfull⟩ := conclude_push (.vpush imm) s imm
  exact ⟨fun bytes h => encodes_of_takes (takes_i _ h), hroom, hasRoom_of_unbounded, hfull⟩

/-- VPUSHR whose register is there is the push of its value. -/
theorem exec_vpushr_of_lt {reg : Byte} (s : State) (h : reg.toNat < 8) :
    exec (.vpushr reg) s = conclude (.vpushr reg) s (push s s.regs[reg.toNat]) := by
  show conclude _ _ ((readReg s reg).bind _) = _
  rw [readReg_of_lt h, bind_ok]

/-- VPUSHR whose register is absent reports it, whatever the stack (R151). -/
theorem exec_vpushr_of_ge {reg : Byte} (s : State) (h : 8 ≤ reg.toNat) :
    exec (.vpushr reg) s = .fault (.execution (.regIndex reg) s.fi (.vpushr reg)) := by
  show conclude _ _ ((readReg s reg).bind _) = _
  rw [readReg_of_ge h, bind_error, conclude_error]

/-- Settles O36: the register's value is pushed; a bad register faults before that. -/
theorem vpushrAppends : Obligations.VpushrAppends := by
  unfold Obligations.VpushrAppends
  intro reg s
  refine ⟨encodes_of_takes (takes_r _ reg), fun h hroom => ?_, exec_vpushr_of_ge s,
    fun h hfull => ?_⟩
  · rw [exec_vpushr_of_lt s h]
    exact (conclude_push _ s _).1 hroom
  · rw [exec_vpushr_of_lt s h]
    exact (conclude_push _ s _).2 hfull

/-! #### VPOP (R152) -/

/-- VPOP of an entry is the register write of it, with the stack below. -/
theorem exec_vpop_of_concat {s : State} {below : List Imm} {v : Imm}
    (htop : s.stack = below ++ [v]) (reg : Byte) :
    exec (.vpop reg) s =
      conclude (.vpop reg) s (writeReg { s with stack := below } reg v) := by
  show conclude _ _ ((pop s).bind _) = _
  rw [pop_concat htop, bind_ok]

/-- VPOP of an entry into a register that is there. -/
theorem exec_vpop_of_lt {s : State} {below : List Imm} {v : Imm} {reg : Byte}
    (htop : s.stack = below ++ [v]) (h : reg.toNat < 8) :
    exec (.vpop reg) s =
      .next { s with stack := below, regs := s.regs.set reg.toNat v h } := by
  rw [exec_vpop_of_concat htop, writeReg_of_lt h, conclude_ok]

/-- VPOP of an empty stack reports it, whatever the register (decision D27). -/
theorem exec_vpop_of_empty {s : State} (h : s.stack = []) (reg : Byte) :
    exec (.vpop reg) s = .fault (.execution .stackEmpty s.fi (.vpop reg)) := by
  show conclude _ _ ((pop s).bind _) = _
  rw [pop_empty h, bind_error, conclude_error]

theorem exec_vpop_of_ge {s : State} {reg : Byte} (hne : s.stack ≠ []) (h : 8 ≤ reg.toNat) :
    exec (.vpop reg) s = .fault (.execution (.regIndex reg) s.fi (.vpop reg)) := by
  rw [exec_vpop_of_concat (List.dropLast_append_getLast hne).symm, writeReg_of_ge h,
    conclude_error]

/-- Settles O37: the top entry is written to the register; an empty stack faults before that. -/
theorem vpopMovesTopToRegister : Obligations.VpopMovesTopToRegister := by
  unfold Obligations.VpopMovesTopToRegister
  exact fun reg s => ⟨encodes_of_takes (takes_r _ reg), fun h below v htop => exec_vpop_of_lt htop h,
    fun hempty => exec_vpop_of_empty hempty reg, exec_vpop_of_ge⟩

/-! #### VPUSH then VPOP (R153) -/

section PushThenPop

variable {s : State}

/-- The run loop stays RUNNING while an instruction follows (70_reset_and_hazards.md R243). -/
theorem advance_status_of_getElem? {i : Instr} (h : s.code[s.fi + 1]? = some i) :
    (advance s).status = .running := by
  obtain ⟨hlt, -⟩ := List.getElem?_eq_some_iff.mp h
  rw [advance_status, runStatus, if_pos hlt]

/-- The step of a VPUSH with room. -/
theorem step_vpush {v : Imm} (hroom : HasRoom s) (hs : s.status = .running)
    (hi : s.code[s.fi]? = some (.vpush v)) :
    step s = .next (advance { s with stack := s.stack ++ [v] }) :=
  step_of_next hs hi ((conclude_push (.vpush v) s v).1 hroom)

/-- The step of a VPOP of an entry into a register that is there. -/
theorem step_vpop {below : List Imm} {v : Imm} {reg : Byte} (hs : s.status = .running)
    (hi : s.code[s.fi]? = some (.vpop reg)) (htop : s.stack = below ++ [v]) (h : reg.toNat < 8) :
    step s = .next (advance { s with stack := below, regs := s.regs.set reg.toNat v h }) :=
  step_of_next hs hi (exec_vpop_of_lt htop h)

/-- VPUSH v then VPOP reg write v to the register and restore the stack. -/
theorem run_vpush_vpop {v : Imm} {reg : Byte} (h : reg.toNat < 8) (hroom : HasRoom s)
    (hs : s.status = .running) (hpush : s.code[s.fi]? = some (.vpush v))
    (hpop : s.code[s.fi + 1]? = some (.vpop reg)) :
    Sys2Proof.core.run 2 s = .next { s with
      regs := s.regs.set reg.toNat v h, fi := s.fi + 2, status := runStatus (s.fi + 2) s.code } := by
  have hs' : (advance { s with stack := s.stack ++ [v] }).status = .running :=
    advance_status_of_getElem? hpop
  rw [run_succ_of_step 1 (step_vpush hroom hs hpush), run_succ_of_step 0 (step_vpop hs' hpop rfl h)]
  rfl

end PushThenPop

/-- Settles O38: both steps of the run loop; writing back the value the register holds changes nothing. -/
theorem pushThenPopIsMov : Obligations.PushThenPopIsMov := by
  unfold Obligations.PushThenPopIsMov
  intro s v reg h hroom hs hpush hpop
  have hrun := run_vpush_vpop h hroom hs hpush hpop
  refine ⟨runStatus (s.fi + 2) s.code, hrun, ?_⟩
  rintro rfl
  rw [hrun, Vector.set_getElem_self]

end Sys2Proof.Machine

/-! ### Arithmetic (44_arithmetic.md) -/

namespace Sys2Proof

/-! #### Values of a kind, their patterns and their ranges (R162; 10_state.md R21) -/

@[simp] theorem kind_ofPat (k : Kind) (p : Nat) : (k.ofPat p).kind = k := by
  cases k <;> rfl

@[simp] theorem pat_ofPat (k : Kind) (p : Nat) : (k.ofPat p).pat = p % 2 ^ k.width := by
  cases k <;> simp [Kind.ofPat, Imm.pat, Kind.width, Nat.mod_one]

/-- The pattern is the value reduced modulo 2^N: two's complement for a signed kind (D22). -/
theorem val_emod (v : Imm) : v.val % ((2 ^ v.kind.width : Nat) : Int) = v.pat := by
  cases v with
  | none => rfl
  | u8 w | u16 w | u32 w | u64 w | f32 w | f64 w =>
    exact Int.emod_eq_of_lt (Int.natCast_nonneg _) (Int.ofNat_lt.mpr w.isLt)
  | i8 w | i16 w | i32 w | i64 w =>
    simp only [Imm.val, Imm.kind, Imm.pat, Kind.width, BitVec.toInt_eq_toNat_bmod, Int.bmod_emod]
    exact Int.emod_eq_of_lt (Int.natCast_nonneg _) (Int.ofNat_lt.mpr w.isLt)

/-- Every integer value is in the range of its kind (10_state.md R46 (g)). -/
theorem val_mem_range (v : Imm) (h : v.kind.isInteger = true) :
    v.kind.minVal ≤ v.val ∧ v.val ≤ v.kind.maxVal := by
  cases v with
  | none | f32 w | f64 w => cases h
  | u8 w | u16 w | u32 w | u64 w =>
    exact ⟨Int.natCast_nonneg _, Int.le_sub_one_of_lt (Int.ofNat_lt.mpr w.isLt)⟩
  | i8 w | i16 w | i32 w | i64 w => exact ⟨w.le_toInt, Int.le_sub_one_of_lt w.toInt_lt⟩

/-- A kind has 2^N values. -/
theorem maxVal_sub_minVal (k : Kind) : k.maxVal - k.minVal = ((2 ^ k.width : Nat) : Int) - 1 := by
  cases k <;> rfl

@[simp] theorem kind_ofInt (k : Kind) (e : Int) : (k.ofInt e).kind = k := kind_ofPat k _

theorem val_ofInt_emod (k : Kind) (e : Int) :
    (k.ofInt e).val % ((2 ^ k.width : Nat) : Int) = e % ((2 ^ k.width : Nat) : Int) := by
  have hpos : (0 : Int) < (2 ^ k.width : Nat) := Int.natCast_pos.mpr (Nat.two_pow_pos _)
  have h := val_emod (k.ofInt e)
  rw [kind_ofInt] at h
  rw [h, Kind.ofInt, pat_ofPat, Int.natCast_mod, Int.toNat_of_nonneg (Int.emod_nonneg _ hpos.ne'),
    Int.emod_emod]

/-- `k(e)` is congruent to `e` modulo 2^N (R162). -/
theorem val_ofInt_sub_emod (k : Kind) (e : Int) :
    ((k.ofInt e).val - e) % ((2 ^ k.width : Nat) : Int) = 0 :=
  Int.emod_eq_emod_iff_emod_sub_eq_zero.mp (val_ofInt_emod k e)

/-- `k(e)` is the value `e` when `e` is in the range of `k`: no other value of the kind is congruent. -/
theorem val_ofInt_of_mem_range {k : Kind} {e : Int} (hk : k.isInteger = true)
    (he : k.minVal ≤ e ∧ e ≤ k.maxVal) : (k.ofInt e).val = e := by
  have hrange := val_mem_range (k.ofInt e) (by rwa [kind_ofInt])
  have hspan := maxVal_sub_minVal k
  rw [kind_ofInt] at hrange
  refine sub_eq_zero.mp (Int.eq_zero_of_abs_lt_dvd
    (Int.dvd_of_emod_eq_zero (val_ofInt_sub_emod k e)) ?_)
  rw [abs_lt]
  omega

/-- The quotient of two values of a kind is in range unless it is that of the minimum and -1 (R164). -/
theorem tdiv_mem_range {k : Kind} {a b : Int} (ha : k.minVal ≤ a ∧ a ≤ k.maxVal) (hb : k.minVal ≤ b)
    (h : ¬(k.isSigned = true ∧ a = k.minVal ∧ b = -1)) :
    k.minVal ≤ a.tdiv b ∧ a.tdiv b ≤ k.maxVal := by
  have hmag : (a.tdiv b).natAbs = a.natAbs / b.natAbs := Int.natAbs_tdiv a b
  cases hs : k.isSigned with
  | false =>
    have hmin : k.minVal = 0 := by simp [Kind.minVal, hs]
    have hnonneg := Int.tdiv_nonneg (hmin ▸ ha.1) (hmin ▸ hb)
    have hle := Nat.div_le_self a.natAbs b.natAbs
    omega
  | true =>
    have hmin : k.minVal = -k.maxVal - 1 := by simp [Kind.minVal, Kind.maxVal, hs]
    obtain rfl | rfl | rfl | hb2 : b = 0 ∨ b = 1 ∨ b = -1 ∨ 2 ≤ b.natAbs := by omega
    · rw [Int.tdiv_zero]
      omega
    · rwa [Int.tdiv_one]
    · have hne : a ≠ k.minVal := fun hamin => h ⟨hs, hamin, rfl⟩
      rw [Int.tdiv_neg, Int.tdiv_one]
      omega
    · have hhalf : a.natAbs / b.natAbs ≤ a.natAbs / 2 := Nat.div_le_div_left hb2 Nat.two_pos
      omega

/-- A quotient rounded toward zero has the sign of the exact one, unless it is zero. -/
theorem tdiv_neg_iff (a b : Int) :
    a.tdiv b < 0 ↔ ((a < 0 ∧ 0 < b) ∨ (0 < a ∧ b < 0)) ∧ a.natAbs / b.natAbs ≠ 0 := by
  rw [← Int.sign_eq_neg_one_iff_neg, Int.sign_tdiv, ne_eq, Nat.div_eq_zero_iff]
  split
  next hlt => simp [hlt]
  next hge =>
    rw [← Int.sign_mul, Int.sign_eq_neg_one_iff_neg, mul_neg_iff]
    omega

end Sys2Proof

namespace Sys2Proof.Machine

/-! #### The two-register step of the four operators (R160, R161) -/

/-- KINDS of an arithmetic operator (R160, R161). -/
def kindsArith (cfg : Config) : ArithOp → Kind → Bool
  | .add | .sub => kindsAddSub cfg
  | .mul | .div => kindsMulDiv

theorem exec_arithInstr (op : ArithOp) (reg1 reg2 : Byte) (s : State) :
    exec (arithInstr op reg1 reg2) s = conclude (arithInstr op reg1 reg2) s
      (aluRR s (kindsArith s.cfg op) (applyArith s.cfg op) reg1 reg2) := by
  cases op <;> rfl

/-- An operator supports a numeric kind, ADD and SUB only one of ADDSUB_KINDS. -/
theorem kindsArith_of_mem {cfg : Config} {op : ArithOp} {k : Kind} (hnum : k.isNumeric = true)
    (hk : op = .add ∨ op = .sub → k ∈ cfg.addSubKinds) : kindsArith cfg op k = true := by
  cases op with
  | add | sub => simpa [kindsArith, kindsAddSub, hnum] using hk
  | mul | div => exact hnum

/-- An integer result that is in range, or out of it in Wrap mode, is the value of the kind (R162). -/
theorem intResult_eq_ok {mode : OverflowMode} {k : Kind} {e : Int}
    (h : (k.minVal ≤ e ∧ e ≤ k.maxVal) ∨ mode = .wrap) : intResult mode k e = .ok (k.ofInt e) := by
  obtain h | rfl := h
  · exact intResult_of_range h
  · exact intResult_wrap k e

theorem intResult_fault {k : Kind} {e : Int} (h : ¬(k.minVal ≤ e ∧ e ≤ k.maxVal)) :
    intResult .fault k e = .error .intOverflow := if_neg h

section ArithInstr

variable {op : ArithOp} {reg1 reg2 : Byte} {s : State} (h1 : reg1.toNat < 8) (h2 : reg2.toNat < 8)

include h1 h2

/-- An operator on two values of one kind that it supports computes, then pushes. -/
theorem exec_arithInstr_of_kinds (hk : s.regs[reg1.toNat].kind = s.regs[reg2.toNat].kind)
    (hs : kindsArith s.cfg op s.regs[reg1.toNat].kind = true) :
    exec (arithInstr op reg1 reg2) s = conclude (arithInstr op reg1 reg2) s
      ((applyArith s.cfg op s.regs[reg1.toNat] s.regs[reg2.toNat]).bind fun r => push s r) := by
  rw [exec_arithInstr, aluRR_of_lt h1 h2, aluStep_of_kinds hk hs]

/-- The same on an integer kind: the integer law, then the push. -/
theorem exec_arithInstr_of_integer {k : Kind} (hk1 : s.regs[reg1.toNat].kind = k)
    (hk2 : s.regs[reg2.toNat].kind = k) (hint : k.isInteger = true)
    (hmem : op = .add ∨ op = .sub → k ∈ s.cfg.addSubKinds) :
    exec (arithInstr op reg1 reg2) s = conclude (arithInstr op reg1 reg2) s
      ((intArith s.cfg.intOverflow op k s.regs[reg1.toNat].val s.regs[reg2.toNat].val).bind
        fun r => push s r) := by
  subst hk1
  have hnum := (Bool.and_eq_true_iff.mp hint).1
  rw [exec_arithInstr_of_kinds h1 h2 hk2.symm (kindsArith_of_mem hnum hmem), applyArith_integer hint]

/-- Two values of one float kind: the FLOAT_OPS function, then the push. -/
theorem exec_arithInstr_f32 {a b : BitVec 32} (ha : s.regs[reg1.toNat] = .f32 a)
    (hb : s.regs[reg2.toNat] = .f32 b) (hmem : op = .add ∨ op = .sub → Kind.f32 ∈ s.cfg.addSubKinds) :
    exec (arithInstr op reg1 reg2) s = conclude (arithInstr op reg1 reg2) s
      (push s (.f32 (float32 s.cfg.floatOps op a b))) := by
  rw [exec_arithInstr_of_kinds h1 h2 (by rw [ha, hb]; rfl)
    (by rw [ha]; exact kindsArith_of_mem rfl hmem), ha, hb, applyArith_f32, bind_ok]

theorem exec_arithInstr_f64 {a b : BitVec 64} (ha : s.regs[reg1.toNat] = .f64 a)
    (hb : s.regs[reg2.toNat] = .f64 b) (hmem : op = .add ∨ op = .sub → Kind.f64 ∈ s.cfg.addSubKinds) :
    exec (arithInstr op reg1 reg2) s = conclude (arithInstr op reg1 reg2) s
      (push s (.f64 (float64 s.cfg.floatOps op a b))) := by
  rw [exec_arithInstr_of_kinds h1 h2 (by rw [ha, hb]; rfl)
    (by rw [ha]; exact kindsArith_of_mem rfl hmem), ha, hb, applyArith_f64, bind_ok]

end ArithInstr

/-! #### ADD, SUB and MUL on integers (R162, R163, R166 to R168) -/

/-- Settles O39: the three operators are one integer result law on the exact result. -/
theorem integerAddSubMul : Obligations.IntegerAddSubMul := by
  unfold Obligations.IntegerAddSubMul
  intro op reg1 reg2 s h1 h2 k e hk1 hk2 hint hop
  have hmem : op = .add ∨ op = .sub → k ∈ s.cfg.addSubKinds := by
    obtain ⟨-, hk, -⟩ | ⟨-, hk, -⟩ | ⟨rfl, -⟩ := hop
    · exact fun _ => hk
    · exact fun _ => hk
    · simp
  have hlaw : intArith s.cfg.intOverflow op k s.regs[reg1.toNat].val s.regs[reg2.toNat].val =
      intResult s.cfg.intOverflow k e := by
    obtain ⟨rfl, -, rfl⟩ | ⟨rfl, -, rfl⟩ | ⟨rfl, rfl⟩ := hop <;> rfl
  rw [exec_arithInstr_of_integer h1 h2 hk1 hk2 hint hmem, hlaw]
  refine ⟨fun hroom h => ⟨k.ofInt e, ?_, kind_ofInt k e, val_ofInt_sub_emod k e,
    val_ofInt_of_mem_range hint⟩, fun hfull h => ?_, fun h hmode => ?_⟩
  · rw [intResult_eq_ok h, bind_ok, (conclude_push _ s _).1 hroom]
  · rw [intResult_eq_ok h, bind_ok, (conclude_push _ s _).2 hfull]
  · rw [hmode, intResult_fault h, bind_error, conclude_error]

/-! #### DIV on integers (R164, R169) -/

theorem intDiv_zero (k : Kind) (a : Int) : intDiv k a 0 = .error .divideByZero := rfl

theorem intDiv_min_neg_one {k : Kind} (hs : k.isSigned = true) :
    intDiv k k.minVal (-1) = .error .intOverflow := by
  simp [intDiv, hs]

theorem intDiv_eq_ok {k : Kind} {a b : Int} (hb : b ≠ 0)
    (h : ¬(k.isSigned = true ∧ a = k.minVal ∧ b = -1)) : intDiv k a b = .ok (k.ofInt (a.tdiv b)) := by
  rw [intDiv, if_neg hb, if_neg h]

/-- Settles O40: the quotient toward zero is in range, so it is the value that is pushed. -/
theorem integerDivision : Obligations.IntegerDivision := by
  unfold Obligations.IntegerDivision
  intro reg1 reg2 s h1 h2 k a b hk1 hk2 hint ha hb
  have hexec : exec (.div reg1 reg2) s =
      conclude (.div reg1 reg2) s ((intDiv k a b).bind fun r => push s r) := by
    rw [← ha, ← hb]
    exact exec_arithInstr_of_integer (op := .div) h1 h2 hk1 hk2 hint (by simp)
  rw [hexec]
  refine ⟨?_, ?_, fun hfull hb0 h => ?_, fun hroom hb0 h => ?_⟩
  · rintro rfl
    rw [intDiv_zero, bind_error, conclude_error]
  · rintro hs rfl rfl
    rw [intDiv_min_neg_one hs, bind_error, conclude_error]
  · rw [intDiv_eq_ok hb0 h, bind_ok, (conclude_push _ s _).2 hfull]
  · have harange := val_mem_range s.regs[reg1.toNat] (by rwa [hk1])
    have hbrange := val_mem_range s.regs[reg2.toNat] (by rwa [hk2])
    rw [hk1, ha] at harange
    rw [hk2, hb] at hbrange
    have hval := val_ofInt_of_mem_range hint (tdiv_mem_range harange hbrange.1 h)
    refine ⟨k.ofInt (a.tdiv b), ?_, kind_ofInt k _, ?_, ?_⟩
    · rw [intDiv_eq_ok hb0 h, bind_ok, (conclude_push _ s _).1 hroom]
    · rw [hval]
      exact Int.natAbs_tdiv a b
    · rw [hval]
      exact tdiv_neg_iff a b

/-! #### The four operators on floats (R165, R166 to R170) -/

/-- Settles O41: the function of the record, then the push; the IEEE 754 record by its two cases. -/
theorem floatArithmeticPushes : Obligations.FloatArithmeticPushes := by
  unfold Obligations.FloatArithmeticPushes
  refine fun op reg1 reg2 s h1 h2 => ⟨fun a b ha hb hmem => ?_, fun a b ha hb hmem => ?_⟩
  · rw [exec_arithInstr_f32 h1 h2 ha hb hmem]
    refine ⟨fun hroom => ⟨_, (conclude_push _ s _).1 hroom, rfl, fun n hn => ?_⟩,
      (conclude_push _ s _).2⟩
    rw [hn]
    exact ⟨fun p => float32_of_some, float32_of_none⟩
  · rw [exec_arithInstr_f64 h1 h2 ha hb hmem]
    refine ⟨fun hroom => ⟨_, (conclude_push _ s _).1 hroom, rfl, fun n hn => ?_⟩,
      (conclude_push _ s _).2⟩
    rw [hn]
    exact ⟨fun p => float64_of_some, float64_of_none⟩

/-! #### Faults of the operands (R160, R161, R171, R180, R182) -/

theorem kindsAddSub_eq_false {cfg : Config} {k : Kind} (h : k = .none ∨ k ∉ cfg.addSubKinds) :
    kindsAddSub cfg k = false := by
  obtain rfl | h := h
  · rfl
  · simp [kindsAddSub, h]

theorem kindsMulDiv_none : kindsMulDiv .none = false := rfl

theorem kindsBitwise_eq_false {k : Kind} (h : k ∈ [Kind.none, .f32, .f64]) :
    kindsBitwise k = false := by
  simp only [List.mem_cons, List.not_mem_nil, or_false] at h
  obtain rfl | rfl | rfl := h <;> rfl

section AluFaults

variable {i : Instr} {s : State} {kinds : Kind → Bool} {apply : Imm → Imm → Except Cause Imm}
  {reg1 reg2 : Byte} {imm : Imm}

/-- A two-register ALU instruction on different kinds or an unsupported one. -/
theorem exec_mismatch_of_aluRR (h1 : reg1.toNat < 8) (h2 : reg2.toNat < 8)
    (h : s.regs[reg1.toNat].kind ≠ s.regs[reg2.toNat].kind ∨ kinds s.regs[reg1.toNat].kind = false)
    (hi : exec i s = conclude i s (aluRR s kinds apply reg1 reg2)) :
    exec i s = .fault (.execution (.kindMismatch s.regs[reg1.toNat] s.regs[reg2.toNat]) s.fi i) := by
  rw [hi, aluRR_of_lt h1 h2, aluStep_mismatch h, conclude_error]

/-- A register-immediate ALU instruction on different kinds or an unsupported one. -/
theorem exec_mismatch_of_aluRI (h1 : reg1.toNat < 8)
    (h : s.regs[reg1.toNat].kind ≠ imm.kind ∨ kinds s.regs[reg1.toNat].kind = false)
    (hi : exec i s = conclude i s (aluRI s kinds apply reg1 imm)) :
    exec i s = .fault (.execution (.kindMismatch s.regs[reg1.toNat] imm) s.fi i) := by
  rw [hi, aluRI_of_lt h1, aluStep_mismatch h, conclude_error]

/-- A two-register ALU instruction accesses its first register, then its second (decision D27). -/
theorem exec_regIndex_of_aluRR (hi : exec i s = conclude i s (aluRR s kinds apply reg1 reg2)) :
    (8 ≤ reg1.toNat → exec i s = .fault (.execution (.regIndex reg1) s.fi i)) ∧
    (reg1.toNat < 8 → 8 ≤ reg2.toNat → exec i s = .fault (.execution (.regIndex reg2) s.fi i)) := by
  rw [hi, aluRR]
  refine ⟨fun h1 => ?_, fun h1 h2 => ?_⟩
  · rw [readReg_of_ge h1, bind_error, conclude_error]
  · rw [readReg_of_lt h1, bind_ok, readReg_of_ge h2, bind_error, conclude_error]

theorem exec_regIndex_of_aluRI (h1 : 8 ≤ reg1.toNat)
    (hi : exec i s = conclude i s (aluRI s kinds apply reg1 imm)) :
    exec i s = .fault (.execution (.regIndex reg1) s.fi i) := by
  rw [hi, aluRI, readReg_of_ge h1, bind_error, conclude_error]

end AluFaults

/-- Settles O44: the kinds each instruction supports, then the kind check that the ALU steps share. -/
theorem unsupportedKindsFault : Obligations.UnsupportedKindsFault := by
  unfold Obligations.UnsupportedKindsFault
  refine fun reg1 reg2 imm s h1 h2 => ⟨?_, ?_, ?_, ?_⟩
  · rintro i (rfl | rfl) h
    all_goals exact exec_mismatch_of_aluRR h1 h2 (h.imp_right kindsAddSub_eq_false) rfl
  · rintro i (rfl | rfl) h
    all_goals exact exec_mismatch_of_aluRR h1 h2 (h.imp_right fun hk => hk ▸ kindsMulDiv_none) rfl
  · rintro i (rfl | rfl | rfl) h
    all_goals exact exec_mismatch_of_aluRR h1 h2 (h.imp_right kindsBitwise_eq_false) rfl
  · rintro i (rfl | rfl) h
    all_goals exact exec_mismatch_of_aluRI h1 (h.imp_right kindsBitwise_eq_false) rfl

/-- Settles O45: the register accesses come first in the steps that the nine instructions share. -/
theorem aluRegisterIndexFaults : Obligations.AluRegisterIndexFaults := by
  unfold Obligations.AluRegisterIndexFaults
  refine fun reg1 reg2 imm s => ⟨fun i hi => ?_, fun i hi h1 => ?_⟩
  · simp only [List.mem_cons, List.not_mem_nil, or_false] at hi
    obtain rfl | rfl | rfl | rfl | rfl | rfl | rfl := hi
    all_goals exact exec_regIndex_of_aluRR rfl
  · simp only [List.mem_cons, List.not_mem_nil, or_false] at hi
    obtain rfl | rfl := hi
    all_goals exact exec_regIndex_of_aluRI h1 rfl

end Sys2Proof.Machine

namespace Sys2Proof

/-! #### Float patterns: sign and magnitude -/

section FloatPatterns

variable {F : FloatFormat}

theorem signWeight_pos (F : FloatFormat) : 0 < signWeight F := Nat.two_pow_pos _

theorem floatMag_lt (F : FloatFormat) (p : Nat) : floatMag F p < signWeight F :=
  Nat.mod_lt p (signWeight_pos F)

theorem infPattern_lt_signWeight (F : FloatFormat) : infPattern F < signWeight F := by
  rw [infPattern, signWeight, pow_add]
  exact Nat.mul_lt_mul_of_pos_right (Nat.sub_lt (Nat.two_pow_pos _) Nat.one_pos) (Nat.two_pow_pos _)

theorem floatSign_withSign {mag : Nat} (h : mag < signWeight F) (negative : Bool) :
    floatSign F (withSign F negative mag) = negative := by
  have hpos := signWeight_pos F
  cases negative with
  | false => simp [floatSign, withSign, Nat.div_eq_of_lt h]
  | true => simp [floatSign, withSign, Nat.add_div_left mag hpos, Nat.div_eq_of_lt h]

theorem floatMag_withSign {mag : Nat} (h : mag < signWeight F) (negative : Bool) :
    floatMag F (withSign F negative mag) = mag := by
  cases negative <;> simp [floatMag, withSign, Nat.mod_eq_of_lt h]

theorem withSign_lt {mag : Nat} (h : mag < signWeight F) (negative : Bool) :
    withSign F negative mag < 2 * signWeight F := by
  cases negative <;> simp [withSign] <;> omega

@[simp] theorem floatSign_floatNeg (F : FloatFormat) (p : Nat) :
    floatSign F (floatNeg F p) = !floatSign F p := floatSign_withSign (floatMag_lt F p) _

@[simp] theorem floatMag_floatNeg (F : FloatFormat) (p : Nat) :
    floatMag F (floatNeg F p) = floatMag F p := floatMag_withSign (floatMag_lt F p) _

@[simp] theorem isNaN_floatNeg (F : FloatFormat) (p : Nat) : isNaN F (floatNeg F p) = isNaN F p := by
  simp [isNaN]

@[simp] theorem isInf_floatNeg (F : FloatFormat) (p : Nat) : isInf F (floatNeg F p) = isInf F p := by
  simp [isInf]

@[simp] theorem isFinite_floatNeg (F : FloatFormat) (p : Nat) :
    isFinite F (floatNeg F p) = isFinite F p := by
  simp [isFinite]

@[simp] theorem signedUnits_floatNeg (F : FloatFormat) (p : Nat) :
    signedUnits F (floatNeg F p) = -signedUnits F p := by
  cases h : floatSign F p <;> simp [signedUnits, h]

theorem natAbs_signedUnits (F : FloatFormat) (p : Nat) :
    (signedUnits F p).natAbs = unitsOf F (floatMag F p) := by
  cases h : floatSign F p <;> simp [signedUnits, h]

theorem isInf_of_isFinite {p : Nat} (h : isFinite F p = true) : isInf F p = false := by
  simp only [isFinite, isInf, decide_eq_true_eq, decide_eq_false_iff_not] at h ⊢
  omega

theorem isFinite_of_isZero (hF : 1 < F.expBits) {p : Nat} (h : isZero F p = true) :
    isFinite F p = true := by
  simp only [isZero, isFinite, decide_eq_true_eq] at h ⊢
  exact h ▸ infPattern_pos hF

theorem isZero_of_isInf (hF : 1 < F.expBits) {p : Nat} (h : isInf F p = true) :
    isZero F p = false := by
  have hpos := infPattern_pos hF
  simp only [isZero, isInf, decide_eq_true_eq, decide_eq_false_iff_not] at h ⊢
  omega

theorem unitsOf_of_isZero {p : Nat} (h : isZero F p = true) : unitsOf F (floatMag F p) = 0 := by
  rw [isZero, decide_eq_true_eq] at h
  rw [h, unitsOf_zero]

theorem signedUnits_of_isZero {p : Nat} (h : isZero F p = true) : signedUnits F p = 0 := by
  rw [← Int.natAbs_eq_zero, natAbs_signedUnits, unitsOf_of_isZero h]

theorem unitsOf_pos_of_not_isZero {p : Nat} (h : isZero F p = false) :
    0 < unitsOf F (floatMag F p) := by
  rw [isZero, decide_eq_false_iff_not] at h
  exact (Nat.pos_of_ne_zero h).trans_le (unitsOf_strictMono F).le_apply

end FloatPatterns

/-! #### What each float operation gives, by the class of its operands (R165) -/

section FloatCases

variable {F : FloatFormat} {a b : Nat}

theorem floatOp_of_isNaN (h : isNaN F a = true ∨ isNaN F b = true) (op : ArithOp) :
    floatOp F op a b = none := by
  have hnan : (isNaN F a || isNaN F b) = true := Bool.or_eq_true_iff.mpr h
  cases op <;> simp [floatOp, floatAdd, floatSub, floatMul, floatDiv, hnan]

theorem floatAdd_inf_inf (ha : isInf F a = true) (hb : isInf F b = true) :
    floatAdd F a b = if floatSign F a = floatSign F b
      then some (withSign F (floatSign F a) (infPattern F)) else none := by
  by_cases hs : floatSign F a = floatSign F b <;>
    simp [floatAdd, isNaN_of_isInf ha, isNaN_of_isInf hb, ha, hb, hs]

theorem floatAdd_inf_finite (ha : isInf F a = true) (hb : isFinite F b = true) :
    floatAdd F a b = some (withSign F (floatSign F a) (infPattern F)) := by
  simp [floatAdd, isNaN_of_isInf ha, isNaN_of_isFinite hb, ha, isInf_of_isFinite hb]

theorem floatAdd_finite_inf (ha : isFinite F a = true) (hb : isInf F b = true) :
    floatAdd F a b = some (withSign F (floatSign F b) (infPattern F)) := by
  simp [floatAdd, isNaN_of_isFinite ha, isNaN_of_isInf hb, isInf_of_isFinite ha, hb]

theorem floatAdd_finite (ha : isFinite F a = true) (hb : isFinite F b = true) :
    floatAdd F a b = if signedUnits F a + signedUnits F b = 0
      then some (withSign F (floatSign F a && floatSign F b) 0)
      else some (withSign F (decide (signedUnits F a + signedUnits F b < 0))
        (roundMag F (signedUnits F a + signedUnits F b).natAbs 1)) := by
  simp [floatAdd, isNaN_of_isFinite ha, isNaN_of_isFinite hb, isInf_of_isFinite ha,
    isInf_of_isFinite hb]

theorem floatMul_inf (h : isInf F a = true ∨ isInf F b = true) (ha : isNaN F a = false)
    (hb : isNaN F b = false) : floatMul F a b = if isZero F a || isZero F b then none
      else some (withSign F (floatSign F a != floatSign F b) (infPattern F)) := by
  have hinf : (isInf F a || isInf F b) = true := Bool.or_eq_true_iff.mpr h
  simp [floatMul, ha, hb, hinf]

theorem floatMul_finite (ha : isFinite F a = true) (hb : isFinite F b = true) :
    floatMul F a b = some (withSign F (floatSign F a != floatSign F b)
      (roundMag F (unitsOf F (floatMag F a) * unitsOf F (floatMag F b)) (unitsOfOne F))) := by
  simp [floatMul, isNaN_of_isFinite ha, isNaN_of_isFinite hb, isInf_of_isFinite ha,
    isInf_of_isFinite hb]

theorem floatDiv_inf_inf (ha : isInf F a = true) (hb : isInf F b = true) :
    floatDiv F a b = none := by
  simp [floatDiv, isNaN_of_isInf ha, isNaN_of_isInf hb, ha, hb]

theorem floatDiv_inf_finite (ha : isInf F a = true) (hb : isFinite F b = true) :
    floatDiv F a b = some (withSign F (floatSign F a != floatSign F b) (infPattern F)) := by
  simp [floatDiv, isNaN_of_isInf ha, isNaN_of_isFinite hb, ha, isInf_of_isFinite hb]

theorem floatDiv_finite_inf (ha : isFinite F a = true) (hb : isInf F b = true) :
    floatDiv F a b = some (withSign F (floatSign F a != floatSign F b) 0) := by
  simp [floatDiv, isNaN_of_isFinite ha, isNaN_of_isInf hb, isInf_of_isFinite ha, hb]

theorem floatDiv_zero (ha : isFinite F a = true) (hb : isFinite F b = true)
    (hb0 : isZero F b = true) : floatDiv F a b = if isZero F a then none
      else some (withSign F (floatSign F a != floatSign F b) (infPattern F)) := by
  simp [floatDiv, isNaN_of_isFinite ha, isNaN_of_isFinite hb, isInf_of_isFinite ha,
    isInf_of_isFinite hb, hb0]

theorem floatDiv_finite (ha : isFinite F a = true) (hb : isFinite F b = true)
    (hb0 : isZero F b = false) :
    floatDiv F a b = some (withSign F (floatSign F a != floatSign F b)
      (roundMag F (unitsOf F (floatMag F a) * unitsOfOne F) (unitsOf F (floatMag F b)))) := by
  simp [floatDiv, isNaN_of_isFinite ha, isNaN_of_isFinite hb, isInf_of_isFinite ha,
    isInf_of_isFinite hb, hb0]

@[simp] theorem divNearestEven_zero (den : Nat) : divNearestEven 0 den = 0 := by
  simp [divNearestEven]

@[simp] theorem roundMag_zero (F : FloatFormat) (den : Nat) : roundMag F 0 den = 0 := by
  simp [roundMag, excessBits]

theorem floatAdd_neg_self (ha : isFinite F a = true) : floatAdd F a (floatNeg F a) = some 0 := by
  rw [floatAdd_finite ha (by rwa [isFinite_floatNeg])]
  simp [withSign]

theorem floatAdd_zero_zero (hF : 1 < F.expBits) (ha : isZero F a = true) (hb : isZero F b = true) :
    floatAdd F a b = some (withSign F (floatSign F a && floatSign F b) 0) := by
  rw [floatAdd_finite (isFinite_of_isZero hF ha) (isFinite_of_isZero hF hb),
    signedUnits_of_isZero ha, signedUnits_of_isZero hb]
  simp

end FloatCases

/-- Settles O43, clause by clause from the cases of the operations. -/
theorem floatSpecialCases : Obligations.FloatSpecialCases := by
  unfold Obligations.FloatSpecialCases
  intro F hF a b _ _
  have hexp : 1 < F.expBits := by obtain rfl | rfl := hF <;> decide
  refine ⟨floatOp_of_isNaN, fun ha hb => ?_, fun ha hb => ?_, fun ha hnan hb0 => ?_,
    fun ha0 hb => ?_, fun ha0 hb0 => ?_, fun ha ha0 hb0 => ?_, fun ha hb0 => ?_,
    fun ha => ⟨floatAdd_neg_self ha, floatAdd_neg_self ha⟩, fun ha0 hs => ?_⟩
  · have hneg : isInf F (floatNeg F b) = true := (isInf_floatNeg F b).trans hb
    rw [floatSub, floatAdd_inf_inf ha hb, floatAdd_inf_inf ha hneg, floatSign_floatNeg]
    refine ⟨floatDiv_inf_inf ha hb, fun hs => ⟨if_neg ?_, if_pos hs⟩,
      fun hs => ⟨if_neg hs, if_pos ?_⟩⟩
    · simp [hs]
    · exact Bool.eq_not.mpr hs
  · have hneg : isInf F (floatNeg F a) = true := (isInf_floatNeg F a).trans ha
    refine ⟨floatAdd_inf_finite ha hb, floatAdd_finite_inf hb ha,
      floatAdd_inf_finite ha ((isFinite_floatNeg F b).trans hb), ?_, floatDiv_inf_finite ha hb, ?_⟩
    · rw [floatSub, floatAdd_finite_inf hb hneg, floatSign_floatNeg]
    · rw [floatDiv_finite_inf hb ha, bne_comm]
  · have ha0 := isZero_of_isInf hexp ha
    rw [floatMul_inf (.inl ha) (isNaN_of_isInf ha) hnan, floatMul_inf (.inr ha) hnan (isNaN_of_isInf ha),
      ha0, hb0, bne_comm]
    exact ⟨rfl, rfl⟩
  · have ha := isNaN_of_isFinite (isFinite_of_isZero hexp ha0)
    rw [floatMul_inf (.inr hb) ha (isNaN_of_isInf hb), floatMul_inf (.inl hb) (isNaN_of_isInf hb) ha, ha0]
    simp
  · have ha := isFinite_of_isZero hexp ha0
    refine ⟨?_, floatAdd_zero_zero hexp ha0 hb0⟩
    rw [floatDiv_zero ha (isFinite_of_isZero hexp hb0) hb0, if_pos ha0]
  · have hb := isFinite_of_isZero hexp hb0
    rw [floatDiv_zero ha hb hb0, floatDiv_finite hb ha ha0, unitsOf_of_isZero hb0, Nat.zero_mul,
      roundMag_zero, ha0, bne_comm]
    exact ⟨rfl, rfl⟩
  · have hb := isFinite_of_isZero hexp hb0
    rw [floatMul_finite ha hb, floatMul_finite hb ha, unitsOf_of_isZero hb0, Nat.mul_zero, Nat.zero_mul,
      roundMag_zero, bne_comm]
    exact ⟨rfl, rfl⟩
  · rw [floatAdd_zero_zero hexp ha0 ha0, hs]
    rfl

/-! #### Rounding to the nearest integer, ties to even -/

/-- The rounded quotient lies within one half of the exact one, and is even where it is exactly one half
away. -/
theorem divNearestEven_error {num den : Nat} (hden : 0 < den) :
    |(divNearestEven num den : ℚ) - num / den| ≤ 1 / 2 ∧
      (|(divNearestEven num den : ℚ) - num / den| = 1 / 2 → divNearestEven num den % 2 = 0) := by
  have hpos : (0 : ℚ) < den := Nat.cast_pos.mpr hden
  have hdiv : (num : ℚ) / den = (num / den : Nat) + (num % den : Nat) / (den : ℚ) := by
    rw [eq_comm, add_div_eq_mul_add_div _ _ hpos.ne', ← Nat.cast_mul, ← Nat.cast_add,
      Nat.div_add_mod']
  have hhalf : (den < 2 * (num % den) ↔ (1 : ℚ) / 2 < (num % den : Nat) / (den : ℚ)) := by
    rw [div_lt_div_iff₀ two_pos hpos, one_mul, mul_comm]
    norm_cast
  have htie : (den = 2 * (num % den) ↔ (1 : ℚ) / 2 = (num % den : Nat) / (den : ℚ)) := by
    rw [div_eq_div_iff two_ne_zero hpos.ne', one_mul, mul_comm]
    norm_cast
  have hfrac : (0 : ℚ) ≤ (num % den : Nat) / (den : ℚ) := by positivity
  have hlt1 : ((num % den : Nat) / (den : ℚ)) < 1 :=
    (div_lt_one hpos).mpr (Nat.cast_lt.mpr (Nat.mod_lt num hden))
  simp only [divNearestEven, hdiv]
  generalize (num % den : Nat) / (den : ℚ) = t at *
  split
  next hup =>
    rw [hhalf, htie] at hup
    have herr : |((num / den + 1 : Nat) : ℚ) - ((num / den : Nat) + t)| = 1 - t := by
      rw [Nat.cast_add_one, add_sub_add_left_eq_sub, abs_of_pos (by linarith)]
    rw [herr]
    refine ⟨?_, fun heq => ?_⟩
    · obtain h | ⟨h, -⟩ := hup <;> linarith
    · obtain h | ⟨-, hodd⟩ := hup
      · linarith
      · omega
  next hdown =>
    rw [hhalf, htie, not_or, not_and, not_lt] at hdown
    rw [sub_add_cancel_left, abs_neg, abs_of_nonneg hfrac]
    exact ⟨hdown.1, fun heq => by have := hdown.2 heq.symm; omega⟩

/-- No integer is nearer to the exact quotient, and of two nearest the even one is taken. -/
theorem divNearestEven_nearest {num den : Nat} (hden : 0 < den) (j : Int) :
    |(divNearestEven num den : ℚ) - num / den| ≤ |(j : ℚ) - num / den| ∧
      (|(divNearestEven num den : ℚ) - num / den| = |(j : ℚ) - num / den| →
        j ≠ divNearestEven num den → divNearestEven num den % 2 = 0) := by
  obtain ⟨hle, heven⟩ := divNearestEven_error (num := num) hden
  obtain rfl | hj := eq_or_ne j (divNearestEven num den : Int)
  · exact ⟨le_rfl, fun _ hne => absurd rfl hne⟩
  · have hone : (1 : ℚ) ≤ |(j : ℚ) - divNearestEven num den| := by
      exact_mod_cast Int.one_le_abs (sub_ne_zero.mpr hj)
    have htri := abs_sub_le (j : ℚ) (num / den) (divNearestEven num den)
    rw [abs_sub_comm ((num : ℚ) / den)] at htri
    exact ⟨by linarith, fun heq _ => heven (le_antisymm hle (by linarith))⟩

/-- Rounding reaches an even number exactly where the exact quotient reaches the midpoint below it. -/
theorem le_divNearestEven_iff {num den n : Nat} (hden : 0 < den) (hn : n % 2 = 0) :
    n ≤ divNearestEven num den ↔ (n : ℚ) - 1 / 2 ≤ num / den := by
  obtain ⟨hle, heven⟩ := divNearestEven_error (num := num) hden
  obtain ⟨hlow, hhigh⟩ := abs_le.mp hle
  refine ⟨fun h => ?_, fun h => ?_⟩
  · have h : (n : ℚ) ≤ divNearestEven num den := Nat.cast_le.mpr h
    linarith
  · by_contra hlt
    have hsucc : (divNearestEven num den : ℚ) + 1 ≤ n := by exact_mod_cast Nat.lt_of_not_le hlt
    have hmid : (divNearestEven num den : ℚ) - num / den = -(1 / 2) := by linarith
    have hpar := heven (by rw [hmid]; norm_num)
    have hn1 : (n : ℚ) = (divNearestEven num den + 1 : Nat) := by push_cast; linarith
    have := Nat.cast_injective hn1
    omega

theorem divNearestEven_le_of_lt {num den n : Nat} (hden : 0 < den) (h : (num : ℚ) / den < n) :
    divNearestEven num den ≤ n := by
  obtain ⟨hlow, hhigh⟩ := abs_le.mp (divNearestEven_error (num := num) hden).1
  have : (divNearestEven num den : ℚ) < (n + 1 : Nat) := by push_cast; linarith
  exact Nat.lt_succ_iff.mp (Nat.cast_lt.mp this)

theorem le_divNearestEven_of_le {num den n : Nat} (hden : 0 < den) (h : (n : ℚ) ≤ num / den) :
    n ≤ divNearestEven num den := by
  obtain ⟨hlow, hhigh⟩ := abs_le.mp (divNearestEven_error (num := num) hden).1
  have : (n : ℚ) < (divNearestEven num den + 1 : Nat) := by push_cast; linarith
  exact Nat.lt_succ_iff.mp (Nat.cast_lt.mp this)

/-! #### The numbers that magnitude patterns denote, in units of the least subnormal -/

section Rounding

variable {F : FloatFormat}

theorem unitsOf_of_lt {m : Nat} (h : m < 2 ^ F.fracBits) : unitsOf F m = m :=
  if_pos (Nat.div_eq_of_lt h)

theorem unitsOf_normal {e r : Nat} (hr : r < 2 ^ F.fracBits) :
    unitsOf F ((e + 1) * 2 ^ F.fracBits + r) = (2 ^ F.fracBits + r) * 2 ^ e := by
  have hdiv : ((e + 1) * 2 ^ F.fracBits + r) / 2 ^ F.fracBits = e + 1 := by
    rw [Nat.add_comm, Nat.add_mul_div_right _ _ (Nat.two_pow_pos _), Nat.div_eq_of_lt hr, Nat.zero_add]
  rw [unitsOf, hdiv, if_neg e.succ_ne_zero, Nat.mul_add_mod_of_lt hr, Nat.add_sub_cancel]

/-- A significand `n` of at most F + 1 bits, or the carry out of it, at the quantum 2^k: the pattern is the
sum, since a carry goes into the exponent by itself. -/
theorem unitsOf_exponent_add {k n : Nat} (hlow : k = 0 ∨ 2 ^ F.fracBits ≤ n)
    (hhigh : n ≤ 2 * 2 ^ F.fracBits) : unitsOf F (k * 2 ^ F.fracBits + n) = n * 2 ^ k := by
  obtain hn | hn | hn : n < 2 ^ F.fracBits ∨ n = 2 * 2 ^ F.fracBits ∨
      (2 ^ F.fracBits ≤ n ∧ n < 2 * 2 ^ F.fracBits) := by omega
  · obtain rfl : k = 0 := hlow.resolve_right (by omega)
    rw [Nat.zero_mul, Nat.zero_add, unitsOf_of_lt hn, pow_zero, Nat.mul_one]
  · rw [hn, ← Nat.add_mul, ← Nat.add_zero ((k + 2) * _), unitsOf_normal (Nat.two_pow_pos _), Nat.add_zero,
      pow_succ]
    ring
  · obtain ⟨r, rfl⟩ := Nat.exists_eq_add_of_le hn.1
    rw [← unitsOf_normal (by omega), ← Nat.add_assoc, Nat.succ_mul]

/-- At the quantum 2^k and above, the numbers of the format are multiples of the quantum. -/
theorem two_pow_dvd_unitsOf {k m : Nat} (h : k = 0 ∨ 2 ^ F.fracBits * 2 ^ k ≤ unitsOf F m) :
    2 ^ k ∣ unitsOf F m := by
  obtain rfl | h := h
  · exact one_dvd _
  · have hexp : k < m / 2 ^ F.fracBits :=
      (Nat.pow_lt_pow_iff_right Nat.one_lt_two).mp
        (Nat.lt_of_mul_lt_mul_left (h.trans_lt (unitsOf_lt F m)))
    rw [unitsOf, if_neg (by omega)]
    exact Dvd.dvd.mul_left (pow_dvd_pow 2 (by omega)) _

/-! #### roundMag: the quantum and the significand (roundTiesToEven) -/

section RoundMag

variable {num den : Nat} (hden : 0 < den)

/-- The significand that `roundMag` rounds to, in quanta of 2^k for its exponent k. -/
def roundedSignificand (F : FloatFormat) (num den : Nat) : Nat :=
  divNearestEven num (den * 2 ^ excessBits F num den)

theorem roundMag_eq (F : FloatFormat) (num den : Nat) :
    roundMag F num den = min (excessBits F num den * 2 ^ F.fracBits + roundedSignificand F num den)
      (infPattern F) := rfl

theorem roundMag_le (F : FloatFormat) (num den : Nat) : roundMag F num den ≤ infPattern F :=
  min_le_right _ _

/-- A finite result is the sum of its exponent and its significand. -/
theorem roundMag_eq_of_lt (h : roundMag F num den < infPattern F) :
    roundMag F num den = excessBits F num den * 2 ^ F.fracBits + roundedSignificand F num den :=
  min_eq_left ((min_lt_iff.mp h).resolve_right (lt_irrefl _)).le

/-- The exact number in quanta. -/
theorem div_quantum (F : FloatFormat) (num den : Nat) :
    (num : ℚ) / (den * 2 ^ excessBits F num den : Nat) =
      num / den / 2 ^ excessBits F num den := by
  push_cast
  rw [div_div]

/-- The parity of the pattern is that of its significand. -/
theorem roundMag_mod_two (hF : 0 < F.fracBits) (h : roundMag F num den < infPattern F) :
    roundMag F num den % 2 = roundedSignificand F num den % 2 := by
  have heven : 2 ^ F.fracBits % 2 = 0 := by
    rw [Nat.pow_mod, Nat.mod_self, Nat.zero_pow hF]
  rw [roundMag_eq_of_lt h, Nat.add_mod, Nat.mul_mod, heven, Nat.mul_zero, Nat.zero_mod, Nat.zero_add,
    Nat.mod_mod]

include hden

/-- The exact number is below the next exponent. -/
theorem lt_of_excessBits :
    (num : ℚ) / den < 2 * 2 ^ F.fracBits * 2 ^ excessBits F num den := by
  have hlt : num / den < 2 * 2 ^ F.fracBits * 2 ^ excessBits F num den := by
    rw [← pow_succ', ← pow_add]
    refine Nat.lt_log2_self.trans_le (Nat.pow_le_pow_right Nat.two_pos ?_)
    unfold excessBits
    omega
  rw [div_lt_iff₀ (Nat.cast_pos.mpr hden)]
  exact_mod_cast (Nat.div_lt_iff_lt_mul hden).mp hlt

/-- Unless the quantum is the least one, the exact number reaches the exponent. -/
theorem le_of_excessBits (hk : excessBits F num den ≠ 0) :
    2 ^ F.fracBits * 2 ^ excessBits F num den ≤ (num : ℚ) / den := by
  have hle : 2 ^ F.fracBits * 2 ^ excessBits F num den ≤ num / den := by
    have hsum : F.fracBits + excessBits F num den = Nat.log2 (num / den) := by
      unfold excessBits at hk ⊢
      omega
    rw [← pow_add, hsum]
    refine Nat.log2_self_le fun hzero => hk ?_
    simp [excessBits, hzero]
  rw [le_div_iff₀ (Nat.cast_pos.mpr hden)]
  exact_mod_cast (Nat.le_div_iff_mul_le hden).mp hle

theorem quantum_pos : 0 < den * 2 ^ excessBits F num den :=
  Nat.mul_pos hden (Nat.two_pow_pos _)

theorem roundedSignificand_le : roundedSignificand F num den ≤ 2 * 2 ^ F.fracBits := by
  refine divNearestEven_le_of_lt (quantum_pos hden) ?_
  rw [div_quantum, div_lt_iff₀ (by positivity)]
  exact_mod_cast lt_of_excessBits hden

theorem le_roundedSignificand :
    excessBits F num den = 0 ∨ 2 ^ F.fracBits ≤ roundedSignificand F num den := by
  refine or_iff_not_imp_left.mpr fun hk => le_divNearestEven_of_le (quantum_pos hden) ?_
  rw [div_quantum, le_div_iff₀ (by positivity)]
  exact_mod_cast le_of_excessBits hden hk

theorem unitsOf_roundMag (h : roundMag F num den < infPattern F) :
    unitsOf F (roundMag F num den) = roundedSignificand F num den * 2 ^ excessBits F num den := by
  rw [roundMag_eq_of_lt h,
    unitsOf_exponent_add (le_roundedSignificand hden) (roundedSignificand_le hden)]

/-- No multiple of the quantum is nearer to the exact number than that of the rounded significand. -/
theorem roundedSignificand_nearest (j : Int) :
    |(roundedSignificand F num den * 2 ^ excessBits F num den : ℚ) - num / den| ≤
        |(j * 2 ^ excessBits F num den : ℚ) - num / den| ∧
      (|(roundedSignificand F num den * 2 ^ excessBits F num den : ℚ) - num / den| =
          |(j * 2 ^ excessBits F num den : ℚ) - num / den| →
        j ≠ roundedSignificand F num den → roundedSignificand F num den % 2 = 0) := by
  have hpos : (0 : ℚ) < 2 ^ excessBits F num den := by positivity
  have hscale (n : ℚ) : |n * 2 ^ excessBits F num den - num / den| =
      |n - num / den / 2 ^ excessBits F num den| * 2 ^ excessBits F num den := by
    rw [← abs_of_pos hpos, ← abs_mul, abs_of_pos hpos, sub_mul, div_mul_cancel₀ _ hpos.ne']
  have h := divNearestEven_nearest (num := num) (quantum_pos (F := F) (num := num) hden) j
  rw [div_quantum] at h
  rw [hscale, hscale, mul_le_mul_iff_left₀ hpos, mul_left_inj' hpos.ne']
  exact h

/-- No number of the format is nearer to the exact one than the rounded one, and of two nearest the one
with the even pattern is taken: from the quantum's exponent on, the numbers are multiples of the quantum;
those below it are farther than the first one of that exponent. -/
theorem roundMag_nearest (hF : 0 < F.fracBits) (h : roundMag F num den < infPattern F) {z : Int}
    {m : Nat} (hz : z.natAbs = unitsOf F m) :
    |(unitsOf F (roundMag F num den) : ℚ) - num / den| ≤ |(z : ℚ) - num / den| ∧
      (|(unitsOf F (roundMag F num den) : ℚ) - num / den| = |(z : ℚ) - num / den| →
        z ≠ unitsOf F (roundMag F num den) → roundMag F num den % 2 = 0) := by
  have hgrid := roundedSignificand_nearest (F := F) (num := num) hden
  rw [unitsOf_roundMag hden h, roundMag_mod_two hF h]
  push_cast
  by_cases hlow : excessBits F num den = 0 ∨
      ((2 ^ F.fracBits * 2 ^ excessBits F num den : Nat) : Int) ≤ z
  · obtain ⟨j, rfl⟩ := Int.natCast_dvd.mpr
      (hz ▸ two_pow_dvd_unitsOf (hlow.imp_right fun hle => by omega) :
        2 ^ excessBits F num den ∣ z.natAbs)
    rw [mul_comm _ j]
    push_cast
    obtain ⟨hle, heven⟩ := hgrid j
    exact ⟨hle, fun heq hne => heven heq fun hj => hne (by rw [hj])⟩
  · obtain ⟨hk, hz⟩ := not_or.mp hlow
    have hz : (z : ℚ) < 2 ^ F.fracBits * 2 ^ excessBits F num den := by
      exact_mod_cast not_le.mp hz
    have hle := (hgrid (2 ^ F.fracBits : Nat)).1
    have hlt := le_of_excessBits hden hk
    push_cast at hle
    rw [abs_of_nonpos (sub_nonpos.mpr hlt)] at hle
    have hfar : |(roundedSignificand F num den * 2 ^ excessBits F num den : ℚ) - num / den| <
        |(z : ℚ) - num / den| := by
      rw [abs_of_neg (a := (z : ℚ) - num / den) (by linarith)]
      linarith
    exact ⟨hfar.le, fun heq => absurd heq hfar.ne⟩

/-- Below the greatest exponent K the rounded number is finite, and the exact one below the midpoint. -/
theorem rounded_lt_of_excessBits_lt {K : Nat} (hK : excessBits F num den < K) :
    excessBits F num den * 2 ^ F.fracBits + roundedSignificand F num den < (K + 2) * 2 ^ F.fracBits ∧
      (num : ℚ) / den < (2 * 2 ^ F.fracBits - 1 / 2) * 2 ^ K := by
  constructor
  · have hexp := Nat.mul_le_mul_right (2 ^ F.fracBits) (Nat.succ_le_of_lt hK)
    have hsig := roundedSignificand_le (F := F) (num := num) hden
    have hpos := Nat.two_pow_pos F.fracBits
    rw [Nat.succ_mul] at hexp
    rw [Nat.add_mul]
    omega
  · have hfrac : (1 : ℚ) ≤ 2 ^ F.fracBits := one_le_pow₀ one_le_two
    have hpow : (2 : ℚ) * 2 ^ excessBits F num den ≤ 2 ^ K := by
      rw [← pow_succ']
      exact pow_le_pow_right₀ one_le_two hK
    calc (num : ℚ) / den < 2 * 2 ^ F.fracBits * 2 ^ excessBits F num den := lt_of_excessBits hden
      _ = 2 ^ F.fracBits * (2 * 2 ^ excessBits F num den) := by ring
      _ ≤ 2 ^ F.fracBits * 2 ^ K := by gcongr
      _ ≤ (2 * 2 ^ F.fracBits - 1 / 2) * 2 ^ K := by gcongr; linarith

/-- Above the greatest exponent K the rounded number is infinite, and the exact one beyond the midpoint. -/
theorem le_rounded_of_lt_excessBits {K : Nat} (hK : K < excessBits F num den) :
    (K + 2) * 2 ^ F.fracBits ≤ excessBits F num den * 2 ^ F.fracBits + roundedSignificand F num den ∧
      (2 * 2 ^ F.fracBits - 1 / 2) * 2 ^ K ≤ (num : ℚ) / den := by
  have hk : excessBits F num den ≠ 0 := Nat.ne_zero_of_lt hK
  constructor
  · have hexp := Nat.mul_le_mul_right (2 ^ F.fracBits) (Nat.succ_le_of_lt hK)
    have hsig := (le_roundedSignificand (F := F) (num := num) hden).resolve_left hk
    rw [Nat.succ_mul] at hexp
    rw [Nat.add_mul]
    omega
  · have hpow : (2 : ℚ) * 2 ^ K ≤ 2 ^ excessBits F num den := by
      rw [← pow_succ']
      exact pow_le_pow_right₀ one_le_two hK
    calc (2 * 2 ^ F.fracBits - 1 / 2) * (2 : ℚ) ^ K ≤ 2 * 2 ^ F.fracBits * 2 ^ K := by
          gcongr; linarith
      _ = 2 ^ F.fracBits * (2 * 2 ^ K) := by ring
      _ ≤ 2 ^ F.fracBits * 2 ^ excessBits F num den := by gcongr
      _ ≤ num / den := le_of_excessBits hden hk

/-- The result is infinite exactly where the exact number reaches the midpoint between the greatest finite
number and the first one beyond it. At the greatest exponent K that is a significand with a carry. -/
theorem roundMag_eq_infPattern_iff (hF : 1 < F.expBits) :
    roundMag F num den = infPattern F ↔
      (2 * 2 ^ F.fracBits - 1 / 2) * 2 ^ (2 ^ F.expBits - 3) ≤ (num : ℚ) / den := by
  have hfour : 2 ^ 2 ≤ 2 ^ F.expBits := Nat.pow_le_pow_right Nat.two_pos hF
  obtain ⟨K, hK⟩ : ∃ K, 2 ^ F.expBits = K + 3 := Nat.exists_eq_add_of_le' (by omega)
  rw [roundMag_eq, min_eq_right_iff, infPattern, hK, Nat.add_sub_cancel, Nat.add_succ_sub_one]
  obtain hlt | heq | hgt := lt_trichotomy (excessBits F num den) K
  · obtain ⟨hpattern, hexact⟩ := rounded_lt_of_excessBits_lt hden hlt
    exact iff_of_false hpattern.not_ge hexact.not_ge
  · have heven : 2 * 2 ^ F.fracBits % 2 = 0 := Nat.mul_mod_right 2 _
    rw [← heq, Nat.add_mul, Nat.add_le_add_iff_left, roundedSignificand,
      le_divNearestEven_iff (quantum_pos hden) heven, div_quantum, le_div_iff₀ (by positivity)]
    push_cast
    rfl
  · obtain ⟨hpattern, hexact⟩ := le_rounded_of_lt_excessBits hden hgt
    exact iff_of_true hpattern hexact

end RoundMag

/-! #### The pattern of a rounded number (R165) -/

/-- The pattern is the sign of a number with the rounding of its magnitude. The number is in units of the
least subnormal; a zero has either sign. -/
def IsRounding (F : FloatFormat) (p : Nat) (x : ℚ) : Prop :=
  ∃ (negative : Bool) (num den : Nat), 0 < den ∧ p = withSign F negative (roundMag F num den) ∧
    x = if negative then -((num : ℚ) / den) else (num : ℚ) / den

theorem roundMag_lt_signWeight (F : FloatFormat) (num den : Nat) : roundMag F num den < signWeight F :=
  (roundMag_le F num den).trans_lt (infPattern_lt_signWeight F)

theorem signedUnits_withSign {mag : Nat} (h : mag < signWeight F) (negative : Bool) :
    signedUnits F (withSign F negative mag) =
      if negative then -(unitsOf F mag : Int) else unitsOf F mag := by
  rw [signedUnits, floatSign_withSign h, floatMag_withSign h]

theorem withSign_mod_two (hF : 0 < F.fracBits) (negative : Bool) (mag : Nat) :
    withSign F negative mag % 2 = mag % 2 := by
  have heven : signWeight F % 2 = 0 := by
    rw [signWeight, Nat.pow_mod, Nat.mod_self, Nat.zero_pow (by omega)]
  cases negative <;> simp [withSign, Nat.add_mod, heven]

section IsRounding

variable {p : Nat} {x : ℚ}

theorem IsRounding.lt (h : IsRounding F p x) : p < 2 * signWeight F := by
  obtain ⟨negative, num, den, -, rfl, -⟩ := h
  exact withSign_lt (roundMag_lt_signWeight F num den) negative

theorem IsRounding.isNaN_eq (h : IsRounding F p x) : isNaN F p = false := by
  obtain ⟨negative, num, den, -, rfl, -⟩ := h
  rw [isNaN, floatMag_withSign (roundMag_lt_signWeight F num den), decide_eq_false_iff_not, not_lt]
  exact roundMag_le F num den

theorem IsRounding.isInf_iff (hF : 1 < F.expBits) (h : IsRounding F p x) :
    isInf F p = true ↔ (2 * 2 ^ F.fracBits - 1 / 2) * 2 ^ (2 ^ F.expBits - 3) ≤ |x| := by
  obtain ⟨negative, num, den, hden, rfl, rfl⟩ := h
  rw [isInf, floatMag_withSign (roundMag_lt_signWeight F num den), decide_eq_true_eq,
    roundMag_eq_infPattern_iff hden hF, apply_ite abs, abs_neg, ite_self,
    abs_of_nonneg (by positivity)]

theorem IsRounding.floatSign_iff (h : IsRounding F p x) (hx : x ≠ 0) :
    floatSign F p = true ↔ x < 0 := by
  obtain ⟨negative, num, den, hden, rfl, rfl⟩ := h
  have hnonneg : (0 : ℚ) ≤ num / den := by positivity
  rw [floatSign_withSign (roundMag_lt_signWeight F num den)]
  cases negative with
  | false => simpa using hnonneg
  | true => simpa using lt_of_le_of_ne hnonneg (by simpa [eq_comm] using hx)

/-- No finite pattern is nearer to the number than the rounded one, and of two nearest the even pattern is
taken. -/
theorem IsRounding.nearest (hF : 0 < F.fracBits) (h : IsRounding F p x) (hp : isFinite F p = true)
    (q : Nat) :
    |(signedUnits F p : ℚ) - x| ≤ |(signedUnits F q : ℚ) - x| ∧
      (|(signedUnits F p : ℚ) - x| = |(signedUnits F q : ℚ) - x| →
        signedUnits F q ≠ signedUnits F p → p % 2 = 0) := by
  obtain ⟨negative, num, den, hden, rfl, rfl⟩ := h
  have hmag := roundMag_lt_signWeight F num den
  rw [isFinite, floatMag_withSign hmag, decide_eq_true_eq] at hp
  rw [signedUnits_withSign hmag, withSign_mod_two hF]
  cases negative with
  | false => simpa using roundMag_nearest hden hF hp (natAbs_signedUnits F q)
  | true =>
    have hneg : (-signedUnits F q).natAbs = unitsOf F (floatMag F q) := by
      rw [Int.natAbs_neg, natAbs_signedUnits]
    have hmirror (v : ℚ) : |v - -((num : ℚ) / den)| = |-v - num / den| := by
      rw [← abs_neg, neg_sub', neg_neg]
    have h := roundMag_nearest hden hF hp hneg
    rw [if_pos rfl, if_pos rfl, hmirror, hmirror]
    push_cast at h ⊢
    rw [neg_neg]
    refine ⟨h.1, fun heq hne => h.2 heq fun heq' => hne ?_⟩
    rw [← heq', neg_neg]

end IsRounding

/-! #### The operations on finite operands are roundings of the exact results -/

section FiniteOperands

variable {a b : Nat}

theorem cast_signedUnits (F : FloatFormat) (p : Nat) : (signedUnits F p : ℚ) =
    if floatSign F p then -(unitsOf F (floatMag F p) : ℚ) else unitsOf F (floatMag F p) := by
  rw [signedUnits]
  split <;> simp

theorem floatAdd_isRounding (ha : isFinite F a = true) (hb : isFinite F b = true) :
    ∃ p, floatAdd F a b = some p ∧ IsRounding F p (signedUnits F a + signedUnits F b : Int) := by
  rw [floatAdd_finite ha hb]
  generalize signedUnits F a + signedUnits F b = e
  split
  next hzero =>
    refine ⟨_, rfl, floatSign F a && floatSign F b, 0, 1, Nat.one_pos, ?_, ?_⟩
    · rw [roundMag_zero]
    · simp [hzero]
  next =>
    refine ⟨_, rfl, decide (e < 0), e.natAbs, 1, Nat.one_pos, rfl, ?_⟩
    rw [Nat.cast_one, div_one, Nat.cast_natAbs, Int.cast_abs]
    split
    next hneg => rw [abs_of_neg (Int.cast_lt_zero.mpr (of_decide_eq_true hneg)), neg_neg]
    next hneg => rw [abs_of_nonneg (Int.cast_nonneg (by simpa using hneg))]

theorem floatMul_isRounding (hF : 1 < F.expBits) (ha : isFinite F a = true)
    (hb : isFinite F b = true) : ∃ p, floatMul F a b = some p ∧
      IsRounding F p ((signedUnits F a : ℚ) * signedUnits F b / unitsOfOne F) := by
  refine ⟨_, floatMul_finite ha hb, _, _, _, unitsOfOne_pos hF, rfl, ?_⟩
  rw [cast_signedUnits, cast_signedUnits, Nat.cast_mul]
  cases floatSign F a <;> cases floatSign F b <;> simp [neg_div]

theorem floatDiv_isRounding (ha : isFinite F a = true) (hb : isFinite F b = true)
    (hb0 : isZero F b = false) : ∃ p, floatDiv F a b = some p ∧
      IsRounding F p ((signedUnits F a : ℚ) * unitsOfOne F / signedUnits F b) := by
  refine ⟨_, floatDiv_finite ha hb hb0, _, _, _, unitsOf_pos_of_not_isZero hb0, rfl, ?_⟩
  rw [cast_signedUnits, cast_signedUnits, Nat.cast_mul]
  cases floatSign F a <;> cases floatSign F b <;> simp [neg_div, div_neg]

/-- A finite pattern denotes its units over those of 1.0. -/
theorem floatValue_mul_unitsOfOne (hF : 1 < F.expBits) (p : Nat) :
    floatValue F p * unitsOfOne F = signedUnits F p :=
  div_mul_cancel₀ _ (Nat.cast_ne_zero.mpr (unitsOfOne_pos hF).ne')

/-- Every operator on finite operands rounds its exact result. -/
theorem floatOp_isRounding (hF : 1 < F.expBits) (op : ArithOp) (ha : isFinite F a = true)
    (hb : isFinite F b = true) (hdiv : op = .div → isZero F b = false) :
    ∃ p, floatOp F op a b = some p ∧
      IsRounding F p (exactOp op (floatValue F a) (floatValue F b) * unitsOfOne F) := by
  have hone : (unitsOfOne F : ℚ) ≠ 0 := Nat.cast_ne_zero.mpr (unitsOfOne_pos hF).ne'
  have hvalue := floatValue_mul_unitsOfOne hF
  cases op with
  | add =>
    have hx : exactOp .add (floatValue F a) (floatValue F b) * unitsOfOne F =
        (signedUnits F a + signedUnits F b : Int) := by
      rw [exactOp, add_mul, hvalue, hvalue, Int.cast_add]
    exact hx ▸ floatAdd_isRounding ha hb
  | sub =>
    have hx : exactOp .sub (floatValue F a) (floatValue F b) * unitsOfOne F =
        (signedUnits F a + signedUnits F (floatNeg F b) : Int) := by
      rw [exactOp, sub_mul, hvalue, hvalue, signedUnits_floatNeg, ← sub_eq_add_neg, Int.cast_sub]
    exact hx ▸ floatAdd_isRounding ha ((isFinite_floatNeg F b).trans hb)
  | mul =>
    have hx : exactOp .mul (floatValue F a) (floatValue F b) * unitsOfOne F =
        signedUnits F a * signedUnits F b / unitsOfOne F := by
      rw [exactOp, eq_div_iff hone, ← hvalue, ← hvalue]
      ring
    exact hx ▸ floatMul_isRounding hF ha hb
  | div =>
    have hx : exactOp .div (floatValue F a) (floatValue F b) * unitsOfOne F =
        signedUnits F a * unitsOfOne F / signedUnits F b := by
      rw [exactOp, ← hvalue a, ← hvalue b, mul_div_mul_right _ _ hone, div_mul_eq_mul_div]
    exact hx ▸ floatDiv_isRounding ha hb (hdiv rfl)

end FiniteOperands

/-- The magnitude at which a result overflows: 2 - 2^-(F+1) times the greatest power of two. -/
def overflowLimit (F : FloatFormat) : ℚ :=
  (2 - 1 / 2 ^ (F.fracBits + 1)) * 2 ^ (2 ^ (F.expBits - 1) - 1)

theorem overflowLimit_mul_unitsOfOne (hF : 1 < F.expBits) :
    overflowLimit F * unitsOfOne F = (2 * 2 ^ F.fracBits - 1 / 2) * 2 ^ (2 ^ F.expBits - 3) := by
  obtain ⟨B, hB⟩ : ∃ B, 2 ^ (F.expBits - 1) = B + 2 :=
    Nat.exists_eq_add_of_le' (Nat.pow_le_pow_right Nat.two_pos (Nat.le_sub_one_of_lt hF))
  have hexp : 2 ^ F.expBits - 3 = B + (B + 1) := by
    have : 2 ^ F.expBits = 2 ^ (F.expBits - 1) * 2 := by rw [← pow_succ, Nat.sub_add_cancel hF.le]
    omega
  have hone : unitsOfOne F = 2 ^ F.fracBits * 2 ^ B := by
    rw [unitsOfOne, hB]
    exact unitsOf_normal (Nat.two_pow_pos F.fracBits)
  rw [overflowLimit, hone, hexp, hB]
  push_cast
  rw [pow_succ 2 F.fracBits, pow_add 2 B]
  field_simp
  ring

theorem overflowLimit_binary32 : overflowLimit binary32 = 2 ^ 128 - 2 ^ 103 := by
  norm_num [overflowLimit, binary32]

theorem overflowLimit_binary64 : overflowLimit binary64 = 2 ^ 1024 - 2 ^ 970 := by
  have hlow : (2 : ℚ) ^ 1023 = 2 ^ 53 * 2 ^ 970 := by rw [← pow_add]
  have hhigh : (2 : ℚ) ^ 1024 = 2 ^ 54 * 2 ^ 970 := by rw [← pow_add]
  calc overflowLimit binary64 = (2 - 1 / 2 ^ 53) * 2 ^ 1023 := rfl
    _ = 2 ^ 1024 - 2 ^ 970 := by
      rw [hlow, hhigh]
      generalize (2 : ℚ) ^ 970 = t
      ring

end Rounding

/-- Settles O42: the pattern is a rounding of the exact result in units of the least subnormal; then the
units are the numbers. -/
theorem floatOperationsRoundToNearestEven : Obligations.FloatOperationsRoundToNearestEven := by
  unfold Obligations.FloatOperationsRoundToNearestEven
  intro F limit hF op a b _ _ ha hb hdiv
  have hexp : 1 < F.expBits := by obtain ⟨rfl, -⟩ | ⟨rfl, -⟩ := hF <;> decide
  have hfrac : 0 < F.fracBits := by obtain ⟨rfl, -⟩ | ⟨rfl, -⟩ := hF <;> decide
  have hlimit : limit = overflowLimit F := by
    obtain ⟨rfl, rfl⟩ | ⟨rfl, rfl⟩ := hF
    · exact overflowLimit_binary32.symm
    · exact overflowLimit_binary64.symm
  have hone : (0 : ℚ) < unitsOfOne F := Nat.cast_pos.mpr (unitsOfOne_pos hexp)
  obtain ⟨p, hp, hround⟩ := floatOp_isRounding hexp op ha hb hdiv
  generalize exactOp op (floatValue F a) (floatValue F b) = e at hround ⊢
  have herror (q : Nat) :
      |floatValue F q - e| = |(signedUnits F q : ℚ) - e * unitsOfOne F| / unitsOfOne F := by
    rw [← floatValue_mul_unitsOfOne hexp, ← sub_mul, abs_mul, abs_of_pos hone,
      mul_div_cancel_right₀ _ hone.ne']
  refine ⟨p, hp, hround.lt, hround.isNaN_eq, ?_, fun he => ?_, fun hfin q _ => ?_⟩
  · rw [hround.isInf_iff hexp, ← overflowLimit_mul_unitsOfOne hexp, abs_mul, abs_of_pos hone,
      mul_le_mul_iff_left₀ hone, hlimit]
  · rw [hround.floatSign_iff (mul_ne_zero he hone.ne'), ← mul_lt_mul_iff_left₀ hone (b := e),
      zero_mul]
  · obtain ⟨hle, heven⟩ := hround.nearest hfrac hfin q
    rw [herror, herror, div_le_div_iff_of_pos_right hone, div_left_inj' hone.ne']
    refine ⟨hle, fun heq hne => heven heq fun hq => hne ?_⟩
    rw [floatValue, floatValue, hq]

end Sys2Proof

/-! ### Bitwise and shifts (45_bitwise_shift.md) -/

namespace Sys2Proof

/-- The range of every kind holds 0 (10_state.md R21). -/
theorem zero_mem_range (k : Kind) : k.minVal ≤ 0 ∧ 0 ≤ k.maxVal := by
  cases k <;> decide

/-- The floor of a value over a positive number is in the range of its kind (R186). -/
theorem ediv_mem_range {k : Kind} {v d : Int} (hd : 0 < d) (hv : k.minVal ≤ v ∧ v ≤ k.maxVal) :
    k.minVal ≤ v / d ∧ v / d ≤ k.maxVal := by
  obtain ⟨hmin, hmax⟩ := zero_mem_range k
  constructor
  · rw [Int.le_ediv_iff_mul_le hd]
    exact (mul_le_of_one_le_right hmin hd).trans hv.1
  · rw [← Int.lt_add_one_iff, Int.ediv_lt_iff_lt_mul hd]
    exact (Int.lt_add_one_of_le hv.2).trans_le (le_mul_of_one_le_right (by omega) hd)

end Sys2Proof

namespace Sys2Proof.Machine

/-! #### The ALU steps on supported operands (R160, R182) -/

section AluResults

variable {i : Instr} {s : State} {kinds : Kind → Bool} {apply : Imm → Imm → Except Cause Imm}
  {reg1 reg2 : Byte} {imm : Imm}

/-- A two-register ALU instruction on two values of one supported kind computes, then pushes. -/
theorem exec_of_aluRR (h1 : reg1.toNat < 8) (h2 : reg2.toNat < 8)
    (hk : s.regs[reg1.toNat].kind = s.regs[reg2.toNat].kind)
    (hs : kinds s.regs[reg1.toNat].kind = true)
    (hi : exec i s = conclude i s (aluRR s kinds apply reg1 reg2)) :
    exec i s = conclude i s
      ((apply s.regs[reg1.toNat] s.regs[reg2.toNat]).bind fun r => push s r) := by
  rw [hi, aluRR_of_lt h1 h2, aluStep_of_kinds hk hs]

/-- The same for a register-immediate ALU instruction. -/
theorem exec_of_aluRI (h1 : reg1.toNat < 8) (hk : s.regs[reg1.toNat].kind = imm.kind)
    (hs : kinds s.regs[reg1.toNat].kind = true)
    (hi : exec i s = conclude i s (aluRI s kinds apply reg1 imm)) :
    exec i s = conclude i s ((apply s.regs[reg1.toNat] imm).bind fun r => push s r) := by
  rw [hi, aluRI_of_lt h1, aluStep_of_kinds hk hs]

end AluResults

/-! #### AND, OR and XOR (R181, R183 to R185) -/

/-- Each bitwise instruction is the two-register step of an operator that computes bit by bit. -/
theorem exists_bitwise_operator {i : Instr} {f : Bool → Bool → Bool} {reg1 reg2 : Byte}
    (h : (i = .and reg1 reg2 ∧ f = fun x y => x && y) ∨ (i = .or reg1 reg2 ∧ f = fun x y => x || y) ∨
      (i = .xor reg1 reg2 ∧ f = fun x y => x != y)) (s : State) :
    ∃ op : Nat → Nat → Nat,
      exec i s = conclude i s (aluRR s kindsBitwise (applyBitwise op) reg1 reg2) ∧
      ∀ p q n, (op p q).testBit n = f (p.testBit n) (q.testBit n) := by
  obtain ⟨rfl, rfl⟩ | ⟨rfl, rfl⟩ | ⟨rfl, rfl⟩ := h
  · exact ⟨(· &&& ·), rfl, Nat.testBit_and⟩
  · exact ⟨(· ||| ·), rfl, Nat.testBit_or⟩
  · exact ⟨(· ^^^ ·), rfl, Nat.testBit_xor⟩

/-- The value of a kind with a given pattern has the low N bits of that pattern. -/
theorem testBit_pat_ofPat {k : Kind} {n : Nat} (hn : n < k.width) (p : Nat) :
    (k.ofPat p).pat.testBit n = p.testBit n := by
  rw [pat_ofPat, Nat.testBit_mod_two_pow, decide_eq_true hn, Bool.true_and]

/-- Settles O46: the pushed value has the low N bits of what a bit by bit operator computes. -/
theorem bitwisePushesBitByBit : Obligations.BitwisePushesBitByBit := by
  unfold Obligations.BitwisePushesBitByBit
  intro reg1 reg2 s h1 h2 k hk1 hk2 hint i f hi
  obtain ⟨op, hexec, hbits⟩ := exists_bitwise_operator hi s
  rw [exec_of_aluRR h1 h2 (hk1.trans hk2.symm) (hk1 ▸ hint) hexec, applyBitwise_eq, bind_ok, hk1]
  refine ⟨fun hroom => ⟨_, (conclude_push i s _).1 hroom, kind_ofPat k _, ?_, fun n hn => ?_⟩,
    (conclude_push i s _).2⟩
  · rw [pat_ofPat]
    exact Nat.mod_lt _ (Nat.two_pow_pos _)
  · rw [testBit_pat_ofPat hn, hbits]

/-! #### The shift amount (R188) -/

section ShiftAmount

variable {mode : OverflowMode} {k : Kind} {v : Imm}

/-- An amount 0 to N - 1 is taken as it is. -/
theorem shiftAmount_of_range (h : 0 ≤ v.val ∧ v.val < k.width) :
    shiftAmount mode k v = .ok v.val.toNat := if_pos h

/-- In Wrap mode any other amount is its pattern modulo N. -/
theorem shiftAmount_wrap (h : ¬(0 ≤ v.val ∧ v.val < k.width)) :
    shiftAmount .wrap k v = .ok (v.pat % k.width) := if_neg h

theorem shiftAmount_fault (h : ¬(0 ≤ v.val ∧ v.val < k.width)) :
    shiftAmount .fault k v = .error .intOverflow := if_neg h

theorem shiftAmount_eq_ok {a : Nat}
    (h : (0 ≤ v.val ∧ v.val < k.width ∧ (a : Int) = v.val) ∨
      (¬(0 ≤ v.val ∧ v.val < k.width) ∧ mode = .wrap ∧ a = v.pat % k.width)) :
    shiftAmount mode k v = .ok a := by
  obtain ⟨hnonneg, hlt, ha⟩ | ⟨hout, rfl, rfl⟩ := h
  · rw [shiftAmount_of_range ⟨hnonneg, hlt⟩, ← ha, Int.toNat_natCast]
  · exact shiftAmount_wrap hout

/-- There is an amount when it is in range, and always in Wrap mode. -/
theorem exists_shiftAmount (h : (0 ≤ v.val ∧ v.val < k.width) ∨ mode = .wrap) :
    ∃ a, shiftAmount mode k v = .ok a := by
  by_cases hin : 0 ≤ v.val ∧ v.val < k.width
  · exact ⟨_, shiftAmount_of_range hin⟩
  · obtain rfl := h.resolve_left hin
    exact ⟨_, shiftAmount_wrap hin⟩

end ShiftAmount

/-! #### SHR and SHL (R186, R187) -/

section Shifts

variable {reg : Byte} {imm : Imm} {s : State} {k : Kind} (h : reg.toNat < 8)
  (hk : s.regs[reg.toNat].kind = k) (himm : imm.kind = k) (hint : k.isInteger = true)

include hk himm hint

/-- SHR on an integer kind: the amount, then the push of the floor of the value over 2^a. -/
theorem exec_shr_of_integer : exec (.shr reg imm) s = conclude (.shr reg imm) s
    ((shiftAmount s.cfg.intOverflow k imm).bind fun a =>
      push s (k.ofInt (s.regs[reg.toNat].val / ((2 ^ a : Nat) : Int)))) := by
  rw [exec_of_aluRI h (hk.trans himm.symm) (hk ▸ hint) rfl, applyShr, bind_map, hk]
  simp only [Int.fdiv_eq_ediv_of_nonneg _ (Int.natCast_nonneg _)]

/-- SHL on an integer kind: the amount, then the push of the low N bits of the pattern times 2^a. -/
theorem exec_shl_of_integer : exec (.shl reg imm) s = conclude (.shl reg imm) s
    ((shiftAmount s.cfg.intOverflow k imm).bind fun a =>
      push s (k.ofPat (s.regs[reg.toNat].pat * 2 ^ a))) := by
  rw [exec_of_aluRI h (hk.trans himm.symm) (hk ▸ hint) rfl, applyShl, bind_map, hk]

end Shifts

/-- Settles O47: both shifts take the one shift amount; the floor is in range, so it is the value that
SHR pushes. -/
theorem shiftsPush : Obligations.ShiftsPush := by
  unfold Obligations.ShiftsPush
  intro reg imm s h k hk himm hint
  rw [exec_shr_of_integer h hk himm hint, exec_shl_of_integer h hk himm hint]
  refine ⟨fun hroom a ha => ?_, fun hfull ha => ?_, fun hout hmode => ?_⟩
  · rw [shiftAmount_eq_ok ha, bind_ok, bind_ok]
    have hrange := val_mem_range s.regs[reg.toNat] (by rwa [hk])
    rw [hk] at hrange
    have hpow : (0 : Int) < (2 ^ a : Nat) := Int.natCast_pos.mpr (Nat.two_pow_pos a)
    exact ⟨⟨_, (conclude_push _ s _).1 hroom, kind_ofInt k _,
        val_ofInt_of_mem_range hint (ediv_mem_range hpow hrange)⟩,
      ⟨_, (conclude_push _ s _).1 hroom, kind_ofPat k _, pat_ofPat k _⟩⟩
  · obtain ⟨a, ha⟩ := exists_shiftAmount ha
    rw [ha]
    exact ⟨(conclude_push _ s _).2 hfull, (conclude_push _ s _).2 hfull⟩
  · rw [hmode, shiftAmount_fault hout]
    exact ⟨conclude_error _ s _, conclude_error _ s _⟩

end Sys2Proof.Machine

/-! ### Observation and HALT (46_system.md) -/

namespace Sys2Proof.Machine

/-! #### OBS is never read (R195, 10_state.md R36) -/

section ObsNeverRead

/-- The state with events put before those of OBS: the change that emitting an event commutes with. -/
def prependObs (before : List Event) (s : State) : State := { s with obs := before ++ s.obs }

@[simp] theorem prependObs_obs (before : List Event) (s : State) :
    (prependObs before s).obs = before ++ s.obs := rfl

theorem unreadByJumps_prependObs (before : List Event) : UnreadByJumps (prependObs before) := by
  constructor
  · constructor <;> intros <;> rfl
  · intros; rfl
  · intros; rfl

/-- An event goes to the end of OBS, whatever stands in front. -/
theorem emit_prependObs (before : List Event) (s : State) (e : Event) :
    emit (prependObs before s) e = prependObs before (emit s e) := by
  simp only [emit, prependObs, List.append_assoc]

/-- Every instruction does the same with earlier events in front of OBS. -/
theorem exec_prependObs (before : List Event) (i : Instr) (s : State) :
    exec i (prependObs before s) = mapNext (prependObs before) (exec i s) := by
  have hφ := unreadByJumps_prependObs before
  cases hip : i.writesIp with
  | true => exact hφ.exec_eq_of_writesIp s hip
  | false =>
    cases hemit : i.emits with
    | true => exact hφ.exec_eq_of_emits s (emit_prependObs before) hemit
    | false =>
      by_cases hhalt : i = .halt
      · subst hhalt
        rfl
      · exact hφ.exec_eq s hip hemit hhalt

theorem mapNext_eq_next {φ : State → State} {r : Result} {t : State} :
    mapNext φ r = .next t ↔ ∃ u, r = .next u ∧ φ u = t := by
  cases r <;> simp [mapNext]

theorem mapNext_eq_fault {φ : State → State} {r : Result} {f : Fault} :
    mapNext φ r = .fault f ↔ r = .fault f := by
  cases r <;> simp [mapNext]

/-- Any OBS is the empty one with its events put in front. -/
theorem prependObs_of_empty (before : List Event) (s : State) :
    prependObs before { s with obs := [] } = { s with obs := before } := by
  simp only [prependObs, List.append_nil]

end ObsNeverRead

/-- Settles O58: from the empty OBS the instruction emits what it emits, and both runs are that one with
their earlier events in front. -/
theorem obsIsNeverRead : Obligations.ObsIsNeverRead := by
  unfold Obligations.ObsIsNeverRead
  intro i s before
  have hrun (obs : List Event) : exec i { s with obs := obs } =
      mapNext (prependObs obs) (exec i { s with obs := [] }) := by
    rw [← prependObs_of_empty obs s, exec_prependObs]
  have hs : exec i s = mapNext (prependObs s.obs) (exec i { s with obs := [] }) := hrun s.obs
  constructor
  · intro t ht
    obtain ⟨u, hu, rfl⟩ := mapNext_eq_next.mp (hs.symm.trans ht)
    refine ⟨u.obs, prependObs_obs s.obs u, ?_⟩
    rw [hrun, hu]
    rfl
  · intro f hf
    rw [hrun, mapNext_eq_fault.mp (hs.symm.trans hf), mapNext]

/-! #### PRINTR, PRINTV and HALT (R195 to R197) -/

theorem exec_printr_of_lt {reg : Byte} (s : State) (h : reg.toNat < 8) :
    exec (.printr reg) s = .next (emit s (.printR s.regs[reg.toNat])) := by
  show conclude _ _ ((readReg s reg).bind _) = _
  rw [readReg_of_lt h, bind_ok, conclude_ok]

theorem exec_printr_of_ge {reg : Byte} (s : State) (h : 8 ≤ reg.toNat) :
    exec (.printr reg) s = .fault (.execution (.regIndex reg) s.fi (.printr reg)) := by
  show conclude _ _ ((readReg s reg).bind _) = _
  rw [readReg_of_ge h, bind_error, conclude_error]

/-- Settles O48: the value read from the register is emitted; a bad register faults before that. -/
theorem printrEmitsRegister : Obligations.PrintrEmitsRegister := by
  unfold Obligations.PrintrEmitsRegister
  intro reg s
  exact ⟨encodes_of_takes (takes_r _ reg), exec_printr_of_lt s, exec_printr_of_ge s⟩

theorem exec_printv_of_lt {addr : Byte} {s : State} (h : addr.toNat < s.cfg.heapCap) :
    exec (.printv addr) s = .next (emit s (.printV (Memory.read s.heap addr.toNat))) := by
  show conclude _ _ ((heapRead s addr).bind _) = _
  rw [heapRead_of_lt h, bind_ok, conclude_ok]

theorem exec_printv_of_ge {addr : Byte} {s : State} (h : s.cfg.heapCap ≤ addr.toNat) :
    exec (.printv addr) s = .fault (.execution (.heapAddr addr) s.fi (.printv addr)) := by
  show conclude _ _ ((heapRead s addr).bind _) = _
  rw [heapRead_of_ge h, bind_error, conclude_error]

/-- Settles O49: the value read from the cell is emitted; an address that does not exist faults before
that. -/
theorem printvEmitsCell : Obligations.PrintvEmitsCell := by
  unfold Obligations.PrintvEmitsCell
  intro addr s
  exact ⟨encodes_of_takes (takes_a _ addr), exec_printv_of_lt, exec_printv_of_ge⟩

@[simp] theorem exec_halt (s : State) : exec .halt s = .next (setRunning s false) := rfl

/-- In a RUNNING machine with an instruction left after this one, the run loop moves `fi` alone
(70_reset_and_hazards.md R243). -/
theorem advance_of_running {s : State} (hs : s.status = .running) (h : s.fi + 1 < s.code.length) :
    advance s = { s with fi := s.fi + 1 } := by
  rw [advance, runStatus, if_pos h, ← hs]

/-- Settles O50: HALT answers its own state with `running` cleared, and the step at it goes on as after
any instruction (decision D8). -/
theorem haltClearsRunningOnly : Obligations.HaltClearsRunningOnly := by
  unfold Obligations.HaltClearsRunningOnly
  intro s
  refine ⟨encodes_of_takes (takes_n _), exec_halt s, fun hs hi hleft => ?_⟩
  rw [step_of_next hs hi (exec_halt s), advance_of_running (s := setRunning s false) hs hleft]
  rfl

end Sys2Proof.Machine

/-! ### Faults (60_exceptions.md) -/

namespace Sys2Proof.Machine

/-! #### A truncated buffer (R205, decision D31) -/

/-- Settles O11: construct records the truncation in a fresh state without code, and a FAULTED machine
answers its record. -/
theorem truncatedBufferExecutesNothing : Obligations.TruncatedBufferExecutesNothing := by
  unfold Obligations.TruncatedBufferExecutesNothing
  intro cfg prog start pos n h
  rw [construct_of_truncated h]
  exact ⟨rfl, rfl, rfl, rfl, step_of_faulted rfl rfl⟩

/-! #### The causes of the primitives and of the ALU are in the matrix (R206) -/

section Matrix

/-- Whatever the computation raises, the matrix of R206 allows for the instruction. -/
def WithinMatrix {α : Type} (cfg : Config) (i : Instr) (x : Except Cause α) : Prop :=
  ∀ c, x = .error c → mayRaise cfg i c = true

variable {α β : Type} {cfg : Config} {i : Instr} {s : State}

theorem withinMatrix_ok (a : α) : WithinMatrix cfg i (.ok a) := nofun

theorem withinMatrix_error {c : Cause} (h : mayRaise cfg i c = true) :
    WithinMatrix cfg i (.error c : Except Cause α) := by
  rintro _ ⟨⟩
  exact h

/-- A computation in two parts stays within the matrix when both parts do. -/
theorem WithinMatrix.bind {x : Except Cause α} {f : α → Except Cause β} (hx : WithinMatrix cfg i x)
    (hf : ∀ a, x = .ok a → WithinMatrix cfg i (f a)) : WithinMatrix cfg i (x.bind f) := by
  intro c h
  obtain h | ⟨a, ha, h⟩ := bind_eq_error.mp h
  · exact hx c h
  · exact hf a ha c h

theorem WithinMatrix.map {x : Except Cause α} (hx : WithinMatrix cfg i x) (f : α → β) :
    WithinMatrix cfg i (x.map f) := by
  cases x with
  | ok a => exact withinMatrix_ok (f a)
  | error c => exact withinMatrix_error (hx c rfl)

theorem mayRaise_regIndex {r : Byte} (hop : r ∈ i.regOperands) (h : 8 ≤ r.toNat) :
    mayRaise cfg i (.regIndex r) = true := by
  simp [mayRaise, hop, h]

theorem mayRaise_heapAddr {a : Byte} (hop : a ∈ i.addrOperands) (h : cfg.heapCap ≤ a.toNat) :
    mayRaise cfg i (.heapAddr a) = true := by
  simp [mayRaise, hop, h]

theorem mayRaise_badJumpKind {v : Imm} (hjump : i.jumps = true) (h : jumpTarget cfg v = none) :
    mayRaise cfg i (.badJumpKind v) = true := by
  simp [mayRaise, hjump, h]

theorem mayRaise_badReturnKind {v : Imm} (h : jumpTarget cfg v = none) :
    mayRaise cfg .ret (.badReturnKind v) = true := by
  simp [mayRaise, h]

/-- A full stack has a finite capacity. -/
theorem mayRaise_stackOverflow {stack : List Imm} (hpush : i.pushes = true)
    (hfull : stackHasRoom cfg stack = false) : mayRaise cfg i .stackOverflow = true := by
  cases hcap : cfg.stackCapacity with
  | none => simp [stackHasRoom, hcap] at hfull
  | some cap => simp [mayRaise, hpush, hcap]

theorem withinMatrix_readReg {r : Byte} (hop : r ∈ i.regOperands) :
    WithinMatrix cfg i (readReg s r) := by
  intro c h
  obtain ⟨hr, rfl⟩ := readReg_eq_error.mp h
  exact mayRaise_regIndex hop hr

theorem withinMatrix_writeReg {r : Byte} {v : Imm} (hop : r ∈ i.regOperands) :
    WithinMatrix cfg i (writeReg s r v) := by
  intro c h
  obtain ⟨hr, rfl⟩ := writeReg_eq_error.mp h
  exact mayRaise_regIndex hop hr

theorem withinMatrix_heapRead {a : Byte} (hop : a ∈ i.addrOperands) :
    WithinMatrix s.cfg i (heapRead s a) := by
  intro c h
  obtain ⟨ha, rfl⟩ := heapRead_eq_error.mp h
  exact mayRaise_heapAddr hop ha

theorem withinMatrix_heapWrite {a : Byte} {v : Imm} (hop : a ∈ i.addrOperands) :
    WithinMatrix s.cfg i (heapWrite s a v) := by
  intro c h
  obtain ⟨ha, rfl⟩ := heapWrite_eq_error.mp h
  exact mayRaise_heapAddr hop ha

theorem withinMatrix_push {v : Imm} (hpush : i.pushes = true) : WithinMatrix s.cfg i (push s v) := by
  intro c h
  obtain ⟨hfull, rfl⟩ := push_eq_error.mp h
  exact mayRaise_stackOverflow hpush hfull

theorem withinMatrix_pop (hpop : i.pops = true) : WithinMatrix cfg i (pop s) := by
  intro c h
  obtain ⟨-, rfl⟩ := pop_eq_error.mp h
  exact hpop

theorem withinMatrix_jumpReg {r : Byte} (hop : r ∈ i.regOperands) (hjump : i.jumps = true) :
    WithinMatrix s.cfg i (jumpReg s r) := by
  intro c h
  obtain ⟨hr, rfl⟩ | ⟨_, htarget, rfl⟩ := jumpReg_eq_error.mp h
  · exact mayRaise_regIndex hop hr
  · exact mayRaise_badJumpKind hjump htarget

theorem withinMatrix_jumpIf {taken : Bool} {r : Byte} (hop : r ∈ i.regOperands)
    (hjump : i.jumps = true) : WithinMatrix s.cfg i (jumpIf s taken r) := by
  cases taken with
  | false => exact withinMatrix_ok s
  | true => exact withinMatrix_jumpReg hop hjump

/-- An ALU instruction pushes its result (10_state.md R33). -/
theorem pushes_of_isAlu (halu : i.isAlu = true) : i.pushes = true := by
  cases i with
  | vload a | vpush v | vpushr r | call r => rfl
  | _ => exact halu

variable {kinds : Kind → Bool} {apply : Imm → Imm → Except Cause Imm}

theorem withinMatrix_aluStep {v1 v2 : Imm} (halu : i.isAlu = true)
    (happly : ∀ w1 w2, WithinMatrix s.cfg i (apply w1 w2)) :
    WithinMatrix s.cfg i (aluStep s kinds apply v1 v2) := by
  intro c h
  obtain rfl | ⟨w1, w2, h⟩ | ⟨hfull, rfl⟩ := aluStep_eq_error h
  · exact halu
  · exact happly w1 w2 c h
  · exact mayRaise_stackOverflow (pushes_of_isAlu halu) hfull

theorem withinMatrix_aluRR {r1 r2 : Byte} (hops : i.regOperands = [r1, r2]) (halu : i.isAlu = true)
    (happly : ∀ w1 w2, WithinMatrix s.cfg i (apply w1 w2)) :
    WithinMatrix s.cfg i (aluRR s kinds apply r1 r2) :=
  (withinMatrix_readReg (by simp [hops])).bind fun _ _ =>
    (withinMatrix_readReg (by simp [hops])).bind fun _ _ => withinMatrix_aluStep halu happly

theorem withinMatrix_aluRI {r : Byte} {imm : Imm} (hops : i.regOperands = [r])
    (halu : i.isAlu = true) (happly : ∀ w1 w2, WithinMatrix s.cfg i (apply w1 w2)) :
    WithinMatrix s.cfg i (aluRI s kinds apply r imm) :=
  (withinMatrix_readReg (by simp [hops])).bind fun _ _ => withinMatrix_aluStep halu happly

/-- The integer law of ADD, SUB and MUL: IntOverflow in Fault mode only (R162). -/
theorem withinMatrix_intResult {k : Kind} {e : Int}
    (h : cfg.intOverflow = .fault → mayRaise cfg i .intOverflow = true) :
    WithinMatrix cfg i (intResult cfg.intOverflow k e) := by
  intro c hc
  obtain ⟨hmode, rfl⟩ := intResult_eq_error hc
  exact h hmode

/-- DIV raises DivideByZero and, in either mode, IntOverflow (R164). -/
theorem withinMatrix_intDiv (r1 r2 : Byte) (k : Kind) (a b : Int) :
    WithinMatrix cfg (.div r1 r2) (intDiv k a b) := by
  unfold intDiv
  split_ifs
  · exact withinMatrix_error rfl
  · exact withinMatrix_error rfl
  · exact withinMatrix_ok _

theorem withinMatrix_intArith (op : ArithOp) (r1 r2 : Byte) (k : Kind) (a b : Int) :
    WithinMatrix cfg (arithInstr op r1 r2) (intArith cfg.intOverflow op k a b) := by
  cases op with
  | add | sub | mul => exact withinMatrix_intResult decide_eq_true
  | div => exact withinMatrix_intDiv r1 r2 k a b

/-- The four operators on values of any kind; on floats they raise nothing (R165). -/
theorem withinMatrix_applyArith (op : ArithOp) (r1 r2 : Byte) (v1 v2 : Imm) :
    WithinMatrix cfg (arithInstr op r1 r2) (applyArith cfg op v1 v2) := by
  unfold applyArith
  split_ifs
  · exact withinMatrix_ok _
  · exact withinMatrix_ok _
  · exact withinMatrix_intArith op r1 r2 _ _ _

/-- The amount of SHR and SHL: IntOverflow in Fault mode only (R188). -/
theorem withinMatrix_shiftAmount {k : Kind} {v : Imm}
    (h : cfg.intOverflow = .fault → mayRaise cfg i .intOverflow = true) :
    WithinMatrix cfg i (shiftAmount cfg.intOverflow k v) := by
  by_cases hin : 0 ≤ v.val ∧ v.val < k.width
  · rw [shiftAmount_of_range hin]
    exact withinMatrix_ok _
  · cases hmode : cfg.intOverflow with
    | wrap =>
      rw [shiftAmount_wrap hin]
      exact withinMatrix_ok _
    | fault =>
      rw [shiftAmount_fault hin]
      exact withinMatrix_error (h hmode)

end Matrix

/-! #### The causes of the instructions are in the matrix -/



/-- Every arm concludes a computation that raises only what the matrix allows its instruction. -/
theorem exec_eq_conclude_withinMatrix (i : Instr) (s : State) :
    ∃ r, exec i s = conclude i s r ∧ WithinMatrix s.cfg i r := by
  cases i with
  | nop => exact ⟨.ok s, rfl, withinMatrix_ok s⟩
  | halt => exact ⟨.ok (setRunning s false), rfl, withinMatrix_ok _⟩
  | mov r v => exact ⟨_, rfl, withinMatrix_writeReg (.head _)⟩
  | movr d r =>
    exact ⟨_, rfl, (withinMatrix_readReg (.tail _ (.head _))).bind fun _ _ =>
      withinMatrix_writeReg (.head _)⟩
  | cmp r1 r2 =>
    exact ⟨_, rfl, (withinMatrix_readReg (.head _)).bind fun _ _ =>
      (withinMatrix_readReg (.tail _ (.head _))).bind fun _ _ => withinMatrix_ok _⟩
  | printr r => exact ⟨_, rfl, (withinMatrix_readReg (.head _)).bind fun _ _ => withinMatrix_ok _⟩
  | printv a => exact ⟨_, rfl, (withinMatrix_heapRead (.head _)).bind fun _ _ => withinMatrix_ok _⟩
  | jmp r => exact ⟨_, rfl, withinMatrix_jumpReg (.head _) rfl⟩
  | je r | jne r | jg r | jl r => exact ⟨_, rfl, withinMatrix_jumpIf (.head _) rfl⟩
  | vstore a v => exact ⟨_, rfl, withinMatrix_heapWrite (.head _)⟩
  | vstorer a r =>
    exact ⟨_, rfl, (withinMatrix_readReg (.head _)).bind fun _ _ => withinMatrix_heapWrite (.head _)⟩
  | vloadr r a =>
    exact ⟨_, rfl, (withinMatrix_heapRead (.head _)).bind fun _ _ => withinMatrix_writeReg (.head _)⟩
  | vload a => exact ⟨_, rfl, (withinMatrix_heapRead (.head _)).bind fun _ _ => withinMatrix_push rfl⟩
  | vpush v => exact ⟨_, rfl, withinMatrix_push rfl⟩
  | vpushr r => exact ⟨_, rfl, (withinMatrix_readReg (.head _)).bind fun _ _ => withinMatrix_push rfl⟩
  | vpop r => exact ⟨_, rfl, (withinMatrix_pop rfl).bind fun _ _ => withinMatrix_writeReg (.head _)⟩
  | call r =>
    refine ⟨_, rfl, (withinMatrix_push rfl).bind fun t ht => ?_⟩
    obtain ⟨-, rfl⟩ := push_eq_ok.mp ht
    exact withinMatrix_jumpReg (s := { s with stack := _ }) (.head _) rfl
  | ret =>
    refine ⟨_, rfl, (withinMatrix_pop rfl).bind fun x _ => ?_⟩
    cases hx : jumpTarget s.cfg x.1 with
    | none => exact withinMatrix_error (mayRaise_badReturnKind hx)
    | some y => exact withinMatrix_ok _
  | add r1 r2 => exact ⟨_, rfl, withinMatrix_aluRR rfl rfl (withinMatrix_applyArith .add r1 r2)⟩
  | sub r1 r2 => exact ⟨_, rfl, withinMatrix_aluRR rfl rfl (withinMatrix_applyArith .sub r1 r2)⟩
  | mul r1 r2 => exact ⟨_, rfl, withinMatrix_aluRR rfl rfl (withinMatrix_applyArith .mul r1 r2)⟩
  | div r1 r2 => exact ⟨_, rfl, withinMatrix_aluRR rfl rfl (withinMatrix_applyArith .div r1 r2)⟩
  | and r1 r2 | or r1 r2 | xor r1 r2 =>
    exact ⟨_, rfl, withinMatrix_aluRR rfl rfl fun _ _ => withinMatrix_ok _⟩
  | shr r v | shl r v =>
    exact ⟨_, rfl, withinMatrix_aluRI rfl rfl fun _ _ =>
      (withinMatrix_shiftAmount decide_eq_true).map _⟩

/-- Settles O56: a concluded computation is never a refusal, and its fault carries the cause that the
computation raised. -/
theorem faultsOnlyAsTheMatrixAllows : Obligations.FaultsOnlyAsTheMatrixAllows := by
  unfold Obligations.FaultsOnlyAsTheMatrixAllows
  intro i s
  obtain ⟨r, hexec, hr⟩ := exec_eq_conclude_withinMatrix i s
  rw [hexec]
  refine ⟨conclude_ne_refused i s r, fun f hf => ?_⟩
  obtain ⟨c, hc, rfl⟩ := conclude_eq_fault.mp hf
  exact ⟨c, rfl, hr c hc⟩

end Sys2Proof.Machine

/-! ### The run loop and what belongs to it alone (70_reset_and_hazards.md) -/

namespace Sys2Proof.Machine

/-- Settles O51: no effect of an instruction writes a field of the sequencer. -/
theorem noInstructionTouchesSequencer : Obligations.NoInstructionTouchesSequencer := by
  unfold Obligations.NoInstructionTouchesSequencer
  intro i s t h
  exact (exec_effect h).sequencer_eq

theorem startRun_of_lt {s : State} (h : s.fi < s.code.length) :
    startRun s = { s with status := .running } := by
  rw [startRun, runStatus, if_pos h]

theorem startRun_of_le {s : State} (h : s.code.length ≤ s.fi) :
    startRun s = { s with status := .done } := by
  rw [startRun, runStatus, if_neg h.not_gt]

/-- Settles O12: the `run` event writes STATUS alone, by whether an instruction is left. -/
theorem runStartsTheLoop : Obligations.RunStartsTheLoop := by
  unfold Obligations.RunStartsTheLoop
  intro s hs
  rw [step_of_constructed hs]
  exact ⟨fun h => congrArg _ (startRun_of_lt h), fun h => congrArg _ (startRun_of_le h)⟩

/-- Settles O13: the instruction fetched at `fi` is the only one executed, and the step advances past it
when it completes and records its fault when it faults. -/
theorem stepRunsDecodedInstruction : Obligations.StepRunsDecodedInstruction := by
  unfold Obligations.StepRunsDecodedInstruction
  intro s i hs _ hi
  have hfetch : fetch s = some i := hi
  refine ⟨fun t ht => step_of_next hs hfetch ht, fun f hf => ?_⟩
  exact ⟨recordFault s f, step_of_fault hs hfetch hf, rfl, rfl, rfl, rfl, rfl, rfl, rfl⟩

end Sys2Proof.Machine
